-- ==== Sys2Proof/Word.lean ====
section
/-! DEFINITION. The unsigned widths of 00_scope.md rule R11. -/

namespace Sys2Proof

/-- `u8` of R11. -/
abbrev Byte := BitVec 8

/-- `u16` of R11. -/
abbrev Half := BitVec 16

/-- `u32` of R11; an event word (R90). -/
abbrev Word := BitVec 32

end Sys2Proof
end

