-- ==== Sys2Proof/Syntax.lean ====
section
/-! DEFINITION. The ten events of 30_encoding.md rule R91, one constructor per row of
spec/opcode_table.json. -/

namespace Sys2Proof

/-- An input event, "(mnemonic(op), imm)" of R94. The events whose operand field must be 0 (R92)
carry none; the others carry the 16-bit field `imm`. -/
inductive Instr where
  /-- A falling edge of the data input (R112). -/
  | edgeFall
  /-- A rising edge of the data input (R113). -/
  | edgeRise
  /-- The compare-match interrupt (R200). -/
  | silenceTimeout
  /-- One invocation of the polled consumer task (R210). -/
  | taskPoll
  /-- A write of the report-flag register, `v = imm[7:0]` (R290). -/
  | configure (imm : Half)
  /-- Re-entry of receive (R291). -/
  | rxReset
  /-- Passage of `imm` microseconds (R110). -/
  | tickUs (imm : Half)
  /-- Advance of `ticks` by `imm` (R292). -/
  | ticksAdv (imm : Half)
  /-- A new value of the RSSI register, `v = imm[7:0]` (R293). -/
  | setRssi (imm : Half)
  /-- Power-on or hardware reset (R341). -/
  | hwReset
deriving DecidableEq, Repr

end Sys2Proof
end

