-- ==== Sys2Proof/WellFormed.lean ====
section
/-! DEFINITION. Which events the operand rule R92 of 30_encoding.md admits. -/

namespace Sys2Proof

/-- R92: CONFIGURE and SET_RSSI take an 8-bit value, so `imm[15:8]` must be 0; every value of
`imm` is a legal count for TICK_US and TICKS_ADV; the other events have no operand. -/
def Instr.wf : Instr → Bool
  | .edgeFall => true
  | .edgeRise => true
  | .silenceTimeout => true
  | .taskPoll => true
  | .configure imm => imm.extractLsb' 8 8 == 0#8
  | .rxReset => true
  | .tickUs _ => true
  | .ticksAdv _ => true
  | .setRssi imm => imm.extractLsb' 8 8 == 0#8
  | .hwReset => true

end Sys2Proof
end

