-- ==== Sys2Proof/Decode.lean ====
section
/-! DEFINITION. The decoder of 30_encoding.md rules R90 to R95, total on every 32-bit word, and
the encoder written from the same table. -/

namespace Sys2Proof

/-- Why a word is refused (R94). -/
inductive DecodeError where
  /-- The opcode is none of 0x01 to 0x0A. -/
  | unknownOpcode
  /-- `rsv` is not 0, or a bit of the operand field that R92 says must be 0 is set. -/
  | reservedBits
deriving DecidableEq, Repr

/-- The ten opcodes of R91. -/
inductive Opcode where
  | edgeFall | edgeRise | silenceTimeout | taskPoll | configure
  | rxReset | tickUs | ticksAdv | setRssi | hwReset
deriving DecidableEq, Repr

/-- The opcode values of R91. -/
def Opcode.toByte : Opcode → Byte
  | .edgeFall => 0x01
  | .edgeRise => 0x02
  | .silenceTimeout => 0x03
  | .taskPoll => 0x04
  | .configure => 0x05
  | .rxReset => 0x06
  | .tickUs => 0x07
  | .ticksAdv => 0x08
  | .setRssi => 0x09
  | .hwReset => 0x0A

/-- The opcode a byte stands for; `none` for 0x00 and 0x0B to 0xFF, which are reserved (R95). -/
def opcodeOfByte (b : Byte) : Option Opcode :=
  if b = 0x01 then some .edgeFall
  else if b = 0x02 then some .edgeRise
  else if b = 0x03 then some .silenceTimeout
  else if b = 0x04 then some .taskPoll
  else if b = 0x05 then some .configure
  else if b = 0x06 then some .rxReset
  else if b = 0x07 then some .tickUs
  else if b = 0x08 then some .ticksAdv
  else if b = 0x09 then some .setRssi
  else if b = 0x0A then some .hwReset
  else none

/-- The field `op`, bits 31:24 (R90). -/
def fieldOp (w : Word) : Byte := w.extractLsb' 24 8

/-- The field `rsv`, bits 23:16 (R90). -/
def fieldRsv (w : Word) : Byte := w.extractLsb' 16 8

/-- The field `imm`, bits 15:0 (R90). -/
def fieldImm (w : Word) : Half := w.extractLsb' 0 16

/-- The must-be-zero bits of the operand field (R92): all of `imm` for an event without operand,
`imm[15:8]` for an 8-bit value, none for a count. -/
def operandOk (op : Opcode) (imm : Half) : Bool :=
  match op with
  | .edgeFall => imm == 0
  | .edgeRise => imm == 0
  | .silenceTimeout => imm == 0
  | .taskPoll => imm == 0
  | .configure => imm.extractLsb' 8 8 == 0#8
  | .rxReset => imm == 0
  | .tickUs => true
  | .ticksAdv => true
  | .setRssi => imm.extractLsb' 8 8 == 0#8
  | .hwReset => imm == 0

/-- "the event is (mnemonic(op), imm)" (R94). -/
def eventOf (op : Opcode) (imm : Half) : Instr :=
  match op with
  | .edgeFall => .edgeFall
  | .edgeRise => .edgeRise
  | .silenceTimeout => .silenceTimeout
  | .taskPoll => .taskPoll
  | .configure => .configure imm
  | .rxReset => .rxReset
  | .tickUs => .tickUs imm
  | .ticksAdv => .ticksAdv imm
  | .setRssi => .setRssi imm
  | .hwReset => .hwReset

/-- Decoding a word, the tests in the order of R94. -/
def decode (w : Word) : Except DecodeError Instr :=
  match opcodeOfByte (fieldOp w) with
  | none => .error .unknownOpcode
  | some op =>
    if fieldRsv w ≠ 0 then .error .reservedBits
    else if operandOk op (fieldImm w) then .ok (eventOf op (fieldImm w))
    else .error .reservedBits

/-- The opcode of an event (R91). -/
def Instr.opcode : Instr → Opcode
  | .edgeFall => .edgeFall
  | .edgeRise => .edgeRise
  | .silenceTimeout => .silenceTimeout
  | .taskPoll => .taskPoll
  | .configure _ => .configure
  | .rxReset => .rxReset
  | .tickUs _ => .tickUs
  | .ticksAdv _ => .ticksAdv
  | .setRssi _ => .setRssi
  | .hwReset => .hwReset

/-- The operand field of an event's word, 0 where it has none (R92). -/
def Instr.imm : Instr → Half
  | .edgeFall => 0
  | .edgeRise => 0
  | .silenceTimeout => 0
  | .taskPoll => 0
  | .configure imm => imm
  | .rxReset => 0
  | .tickUs imm => imm
  | .ticksAdv imm => imm
  | .setRssi imm => imm
  | .hwReset => 0

/-- The word of an event: `op ++ rsv ++ imm` with `rsv = 0` (R90, R98). -/
def encode (i : Instr) : Word := i.opcode.toByte ++ (0#8) ++ i.imm

/-- The host's view of the decoder: an event is one 32-bit word, so the bits above `nbits` are 0. -/
def decodeTableWord (nbits w : Nat) : Option Instr :=
  match decode (BitVec.ofNat 32 (w % 2 ^ nbits)) with
  | .ok i => some i
  | .error _ => none

end Sys2Proof
end

