-- ==== Sys2Proof/Machine/Bucket.lean ====
section
/-! DEFINITION. The receive bucket of 10_state.md rules R38 to R42, and the byte arrays of
20_memory.md rule R70 that it and the scratch are made of. -/

namespace Sys2Proof.Machine

/-- An internal byte array (R70) as (index, byte) pairs, indices strictly rising and no byte 0:
an unlisted index reads as 0, the reset contents of R340. -/
abbrev Memory := List Host.Cell

/-- The ten bucket states of R38, in the order the source lists them. -/
inductive BucketState where
  | reset | init | sync | collect | hms | esa | revolt | it | tcm97001 | itv3
deriving DecidableEq, Repr

/-- The number R38 gives each state; only R201 uses the order. -/
def BucketState.code : BucketState → Nat
  | .reset => 0
  | .init => 1
  | .sync => 2
  | .collect => 3
  | .hms => 4
  | .esa => 5
  | .revolt => 6
  | .it => 7
  | .tcm97001 => 8
  | .itv3 => 9

/-- A wave: a pair of scaled counts (R16). -/
structure Wave where
  high : Half
  low : Half
deriving DecidableEq, Repr

/-- One slot of the receive ring (R38 to R42). -/
structure Bucket where
  /-- R38. -/
  state : BucketState
  /-- The reference wave of a 0 bit (R39). -/
  zero : Wave
  /-- The reference wave of a 1 bit (R39). -/
  one : Wave
  /-- The count of sync pulses; it wraps (R40). -/
  sync : Byte
  /-- The byte cursor, 0 to MAXMSG (R41). -/
  byteIdx : Byte
  /-- The bit cursor, counting down from 7 to 0 within a byte (R41). -/
  bitIdx : Fin 8
  /-- The received bits, MSB first (R42). -/
  data : Memory
deriving DecidableEq, Repr

/-- R132 `BucketClear`: the reset value of a bucket. -/
def Bucket.cleared : Bucket where
  state := .reset
  zero := ⟨0, 0⟩
  one := ⟨0, 0⟩
  sync := 0
  byteIdx := 0
  bitIdx := 7
  data := []

/-- `L(b) = 8·b.byteIdx + (7 − b.bitIdx)`, the number of bits a bucket holds (R41). -/
def Bucket.bitCount (b : Bucket) : Nat := 8 * b.byteIdx.toNat + (7 - b.bitIdx.val)

end Sys2Proof.Machine
end

