-- ==== Sys2Proof/Config.lean ====
section
/-! DEFINITION. The implementation parameters of 00_scope.md rule R7, and the values the spec
leaves open. The parameters of one legal value are constants of Machine/Params.lean. -/

namespace Sys2Proof

/-- `PULSE_W`, the width of the capture registers: 8 or 16 (R7). -/
inductive PulseWidth where
  | w8 | w16
deriving DecidableEq, Repr

/-- `ESA_BITLEN`: 144 or 160 (R7). -/
inductive EsaBitLen where
  | b144 | b160
deriving DecidableEq, Repr

/-- The ten analyzers of `ENABLED` (R3). -/
inductive Analyzer where
  | it | tcm97001 | revolt | esa | fs20 | em | hms | tx3 | ks300 | hoermann
deriving DecidableEq, Repr

/-- What a router sync shape can look at: the wave, and every field of the bucket (R156). -/
inductive RouterQuantity where
  | hightime | lowtime
  | state | zeroHigh | zeroLow | oneHigh | oneLow | sync | byteIdx | bitIdx
  /-- The byte `data[index]`; 0 for `index ≥ MAXMSG`, DESIGN CHOICE, log entry 5. -/
  | dataByte (index : Nat)
deriving DecidableEq, Repr

/-- The parameter `ROUTER_SYNC`, "any total predicate" of (bucket, hightime, lowtime) (R7, R156),
as plain data, since State holds the parameters: a formula over ranges of the bucket's fields and
of the wave. Every predicate of a bucket with MAXMSG bytes has one
(`Machine.exists_routerSync_of_predicate`, Laws/Router.lean). DESIGN CHOICE, log entry 5. -/
inductive RouterSync where
  /-- Constantly false, the default of R7. -/
  | never
  /-- Constantly true. -/
  | always
  /-- The quantity lies in `[lo, hi]`. -/
  | within (quantity : RouterQuantity) (lo hi : Nat)
  | not (p : RouterSync)
  | and (p q : RouterSync)
  /-- The uninterpreted predicate `Config.routerShape`: the shape the source does not give. -/
  | shape
deriving DecidableEq, Repr

/-- The parameter `TYPECHAR`: the type character of each datatype (R275). -/
structure TypeChars where
  it : Byte
  tcm97001 : Byte
  revolt : Byte
  esa : Byte
  fs20 : Byte
  fht : Byte
  em : Byte
  hms : Byte
  tx3 : Byte
  ks300 : Byte
  hoermann : Byte
deriving DecidableEq, Repr

/-- The implementation parameters (R7): fixed for a run of the model, not changed by reset (R340). -/
structure Config where
  /-- `N`, the number of buckets. -/
  nBuckets : Nat
  /-- `MAXMSG`, the bytes of `data`, `obuf` and `robuf`. -/
  maxmsg : Nat
  /-- `PULSE_W`. -/
  pulseW : PulseWidth
  /-- `REPTIME`, the repeat window in ticks. -/
  reptime : Word
  /-- `ESA_BITLEN`. -/
  esaBitLen : EsaBitLen
  /-- `ESA_CRC`, OPEN (I-1). -/
  esaCrc : Half
  /-- `KS300_Y0`, 0 to 15. -/
  ks300Y0 : BitVec 4
  /-- `REVOLT_ZERO`. -/
  revoltZero : Machine.Wave
  /-- `REVOLT_ONE`. -/
  revoltOne : Machine.Wave
  /-- `ROUTER_SYNC`. -/
  routerSync : RouterSync
  /-- The set of `FHT_CTRL`. -/
  fhtCtrl : List Byte
  /-- The byte index of `FHT_CTRL`. -/
  fhtCtrlIndex : Nat
  /-- `TYPECHAR`. -/
  typeChars : TypeChars
  /-- `ENABLED`. -/
  enabled : List Analyzer
deriving DecidableEq, Repr

/-- The value of `ESA_CRC` in the reset state: OPEN, "the source names it and gives no value"
(R222, I-1), so nothing is known of it. Log entry 4. -/
opaque Config.openEsaCrc : Half

/-- The RF-router sync shape: the source "gives no shape" (R156, I-2), so nothing is known of it.
Log entry 5. -/
opaque Config.routerShape : Machine.Bucket → Half → Half → Bool

end Sys2Proof
end

