-- ==== Sys2Proof/Machine/Params.lean ====
section
/-! DEFINITION. The parameters of one legal value, the defaults and the legality rules of
00_scope.md rules R7 and R8, and the derived sizes. -/

namespace Sys2Proof.Machine

/-- `TDIFF = 200/16` (R7, R9). -/
def TDIFF : Nat := 12

/-- `TDIFFIT = 350/16` (R7, R9). -/
def TDIFFIT : Nat := 21

/-- `SILENCE`, µs (R7). -/
def SILENCE : Half := 4000

/-- `SILENCE_TCM`, µs (R7). -/
def SILENCE_TCM : Half := 4600

/-- `SILENCE_ESA`, µs (R7). -/
def SILENCE_ESA : Half := 1000

/-- `ESA_BITLEN` as a number (R7). -/
def esaBits : EsaBitLen → Nat
  | .b144 => 144
  | .b160 => 160

/-- `NB`, the ESA data bytes: `8·NB + 8 + 16 = ESA_BITLEN` (R220). -/
def esaDataBytes : EsaBitLen → Nat
  | .b144 => 15
  | .b160 => 17

/-- The legal configurations of R7 and R8. `MAXMSG ≥ ESA_BITLEN/8` holds whether or not the ESA
analyzer is enabled, as R8 has it (log entry 6); the parameters not named here are legal at every
value of their type. -/
abbrev legalConfig (c : Config) : Prop :=
  2 ≤ c.nBuckets ∧ c.nBuckets ≤ 255 ∧
  13 ≤ c.maxmsg ∧ c.maxmsg ≤ 255 ∧
  esaBits c.esaBitLen / 8 ≤ c.maxmsg ∧
  c.reptime ≠ 0 ∧
  c.fhtCtrlIndex < c.maxmsg

/-- The default type characters (R275, PRESUMED by the spec for seven of them: G-4, log entry 7). -/
def defaultTypeChars : TypeChars where
  it := 0x69
  tcm97001 := 0x73
  revolt := 0x72
  esa := 0x53
  fs20 := 0x46
  fht := 0x54
  em := 0x45
  hms := 0x48
  tx3 := 0x74
  ks300 := 0x4B
  hoermann := 0x52

/-- The defaults of R7; the general-knowledge ones are named in log entry 7. -/
def defaultConfig : Config where
  nBuckets := 4
  maxmsg := 20
  pulseW := .w16
  reptime := 38
  esaBitLen := .b144
  esaCrc := Config.openEsaCrc
  ks300Y0 := 5
  revoltZero := ⟨6, 14⟩
  revoltOne := ⟨19, 14⟩
  routerSync := .never
  fhtCtrl := [0x4B, 0x69, 0x53, 0x54, 0x7D, 0x7E]
  fhtCtrlIndex := 2
  typeChars := defaultTypeChars
  enabled := [.it, .tcm97001, .revolt, .esa, .fs20, .em, .hms, .tx3, .ks300, .hoermann]

/-- The value mod `2^PULSE_W` (R7, R111). -/
def truncPulse (c : Config) (v : Half) : Half :=
  match c.pulseW with
  | .w8 => v &&& 0xFF
  | .w16 => v

end Sys2Proof.Machine
end

