-- ==== Sys2Proof/Machine/State.lean ====
section
/-! DEFINITION. The architectural state of 10_state.md, its reset value (70_reset_and_hazards.md
rule R340), and the reasons the model can stop. -/

namespace Sys2Proof.Machine

/-- The protocol tag of R48; NONE is the absence of one. -/
inductive Datatype where
  | it | tcm97001 | revolt | esa | fs20 | fht | em | hms | tx3 | ks300 | hoermann
deriving DecidableEq, Repr

/-- A record of the collaborator-call trace (R14). -/
inductive Call where
  /-- `fhtHook(payload bytes)` (R268). -/
  | fhtHook (payload : List Byte)
  /-- `rfRouterAccept(bucket snapshot)` (R156). -/
  | rfRouterAccept (snapshot : Bucket)
deriving DecidableEq, Repr

/-- A record of the notice trace, with its info (R311). -/
inductive Notice where
  | refused (word : Word)
  | frameTooShort (inIdx : Byte)
  | dataOverrun (inIdx : Byte)
  | ringOverflow (inIdx : Byte)
  | pulseTooLong (inIdx : Byte)
  | demodMismatch (inIdx : Byte)
  | checkFail (outIdx : Byte)
  | duplicate (datatype : Datatype)
  | cancelled (inIdx : Byte)
deriving DecidableEq, Repr

/-- The model's faults. -/
inductive Fault where
  /-- An index outside `0..MAXMSG−1` of a byte array (R71, I-7) or outside `0..N−1` of the ring
  (log entry 11). Raised by the array and ring reads and writes of Machine/Ops.lean. Safe: the
  model stops where the rules give no value, and no reachable state has such an index. -/
  | indexRange
deriving DecidableEq, Repr

/-- The model's refusals. -/
inductive Refusal where
  /-- Raised by exec's arm of an instruction without a meaning. Safe: the model stops. No arm of
  this model raises it. -/
  | notModelled (mnemonic : String)
  /-- Raised by step: "A configuration outside these constraints is refused by the model" (R8),
  "the model does not start" (I-4). Safe: the spec gives such a machine no behaviour. -/
  | illegalConfig
deriving DecidableEq, Repr

/-- The state of the core (R30), with the model's own fields `cfg` and `inputs`. -/
structure State where
  /-- The implementation parameters; written by no event (R340). The model's own, log entry 3. -/
  cfg : Config
  /-- The event words supplied and not yet consumed, oldest first. The model's own, log entry 1. -/
  inputs : List Word
  /-- The index of the next event in the stream (R31). -/
  index : Nat
  /-- `TCNT` (R32). -/
  tcnt : Half
  /-- `OCR` (R33). -/
  ocr : Half
  /-- `OCIE` (R34). -/
  ocie : Bool
  /-- `hightime` (R35). -/
  hightime : Half
  /-- `lowtime` (R36). -/
  lowtime : Half
  /-- `bucket[0..N−1]` (R37). -/
  buckets : List Bucket
  /-- `in`, the producer bucket's index (R44). -/
  inIdx : Byte
  /-- `out`, the index of the next bucket the consumer reads (R45). -/
  outIdx : Byte
  /-- The count of committed buckets (R46). -/
  nrUsed : Byte
  /-- The output payload buffer (R47). -/
  obuf : Memory
  /-- The number of complete output bytes (R47). -/
  oby : Byte
  /-- `obuf[oby]` holds one more half byte (R47). -/
  nibble : Bool
  /-- The protocol tag, `none` for NONE (R48). -/
  datatype : Option Datatype
  /-- The bytes of the last frame that reached the deduplicator (R49). -/
  robuf : Memory
  /-- The item count of that frame (R49). -/
  roby : Byte
  /-- The tick count at that frame (R49). -/
  repTime : Word
  /-- R50. -/
  isRep : Bool
  /-- R50. -/
  isNotRep : Bool
  /-- R50. -/
  packageOK : Bool
  /-- The report-flag register (R51). -/
  txReport : Byte
  /-- The repeat-timing counter (R52). -/
  ticks : Word
  /-- The RSSI input register (R53). -/
  rssi : Byte
  /-- An event word has been refused since reset (R54). -/
  refused : Bool
  /-- The byte sink's trace, oldest first (R14). -/
  sink : List Byte
  /-- The collaborator-call trace, oldest first (R14). -/
  calls : List Call
  /-- The diagnostic trace, oldest first (R311). -/
  notices : List Notice
deriving DecidableEq, Repr

/-- Every element at the value R340 gives it at power-on, under the parameters `c`. -/
def State.powerOn (c : Config) : State where
  cfg := c
  inputs := []
  index := 0
  tcnt := 0
  ocr := 0
  ocie := false
  hightime := 0
  lowtime := 0
  buckets := List.replicate c.nBuckets Bucket.cleared
  inIdx := 0
  outIdx := 0
  nrUsed := 0
  obuf := []
  oby := 0
  nibble := false
  datatype := none
  robuf := []
  roby := 0
  repTime := 0
  isRep := false
  isNotRep := false
  packageOK := false
  txReport := 0
  ticks := 0
  rssi := 0
  refused := false
  sink := []
  calls := []
  notices := []

/-- The machine after power-on, with the default parameters of R7. -/
def State.reset : State := State.powerOn defaultConfig

end Sys2Proof.Machine
end

