-- ==== Sys2Proof/Machine/Flags.lean ====
section
/-! DEFINITION. The report flags of 10_state.md rule R51 (the isolated table G-1 asks for), and
the parity, sum and nibble computations the checks use. -/

namespace Sys2Proof.Machine

/-- Bit of `txReport`: emit accepted frames (R51, R270). -/
def REP_KNOWN : Nat := 0

/-- Bit of `txReport`: skip the repeat comparison (R51, R261). -/
def REP_REPEATED : Nat := 1

/-- Bit of `txReport`: debug on, the BOVF line (R51, R203). -/
def REP_BITS : Nat := 2

/-- Bit of `txReport`: read by no rule (R51, R277). -/
def REP_MONITOR : Nat := 3

/-- Bit of `txReport`: read by no rule (R51, R277). -/
def REP_BINTIME : Nat := 4

/-- Bit of `txReport`: append the RSSI byte (R51, R273). -/
def REP_RSSI : Nat := 5

/-- Bit of `txReport`: no synthetic repeats of FHT control frames (R51, R264). -/
def REP_FHTPROTO : Nat := 6

/-- Bit of `txReport`: read by no rule (R51, R277). -/
def REP_LCDMON : Nat := 7

/-- Whether a flag of the report-flag register is set. -/
def reportFlag (txReport : Byte) (bit : Nat) : Bool := txReport.getLsbD bit

/-- `popcount(v)` of a byte (R10). -/
def popcount (v : Byte) : Nat := (List.range 8).countP fun i => v.getLsbD i

/-- `parity(v) = popcount(v) mod 2` (R10, R225). -/
def parity (v : Byte) : Bool := popcount v % 2 == 1

/-- The sum of bytes mod 256, from the start value `s`: `cksum1` over a list (R225). -/
def cksum1 (s : Byte) (bytes : List Byte) : Byte := bytes.foldl (· + ·) s

/-- The XOR of bytes (R228). -/
def xorBytes (bytes : List Byte) : Byte := bytes.foldl (· ^^^ ·) 0

/-- The sum of bytes mod 2^16 (R222). -/
def sum16 (bytes : List Byte) : Half := bytes.foldl (fun a b => a + b.setWidth 16) 0

/-- The high nibble, `v >> 4`. -/
def hiNibble (v : Byte) : BitVec 4 := v.extractLsb' 4 4

/-- The low nibble, `v & 0xF`. -/
def loNibble (v : Byte) : BitVec 4 := v.extractLsb' 0 4

/-- `hex1(n)`: the ASCII byte of an uppercase hexadecimal digit (R15). -/
def hex1 (n : BitVec 4) : Byte :=
  if n.toNat ≤ 9 then 0x30 + n.setWidth 8 else 0x41 + n.setWidth 8 - 10

/-- `emitHex2(v)`: the high nibble's digit, then the low nibble's (R15). -/
def hex2 (v : Byte) : List Byte := [hex1 (hiNibble v), hex1 (loNibble v)]

/-- `emitNewline()`: CR LF (R15). -/
def newline : List Byte := [0x0D, 0x0A]

end Sys2Proof.Machine
end

