-- ==== Sys2Proof/Machine/Operands.lean ====
section
/-! DEFINITION. The operand forms of 30_encoding.md rule R92, the scaled count of R111 and the
wave arithmetic of 43_bit_demodulator.md rules R170 to R172. -/

namespace Sys2Proof.Machine

/-- An 8-bit operand, `imm[7:0]` (R92). -/
def operandByte (imm : Half) : Byte := imm.extractLsb' 0 8

/-- A count operand, `zext_32(imm)` (R92). -/
def operandCount (imm : Half) : Word := imm.setWidth 32

/-- The scaled count `Scale(t) = (t >> 4) mod 2^PULSE_W` (R111). -/
def scale (c : Config) (t : Half) : Half := truncPulse c (t >>> 4)

/-- The low time `(c − hightime) mod 2^PULSE_W` (R113). -/
def lowTimeOf (cfg : Config) (c hightime : Half) : Half := truncPulse cfg (c - hightime)

/-- `Tolerance(st)` (R170). -/
def tolerance (st : BucketState) : Nat := if st = .it then TDIFFIT else TDIFF

/-- `|a − b|` in exact integers (R11). -/
def absDiff (a b : Nat) : Nat := ((a : Int) - (b : Int)).natAbs

/-- `WaveEquals(ref, h, l, st)` (R171): three strict tests in exact integers. -/
def waveEquals (ref : Wave) (h l : Half) (st : BucketState) : Bool :=
  decide (absDiff ref.low.toNat l.toNat < tolerance st) &&
  decide (absDiff ref.high.toNat h.toNat < tolerance st) &&
  decide (absDiff (ref.low.toNat + ref.high.toNat) (l.toNat + h.toNat) < tolerance st)

/-- One component of the 3:1 average, `((3·r + x) div 4) mod 2^16` (R172). -/
def avg31 (r x : Half) : Half := BitVec.ofNat 16 ((3 * r.toNat + x.toNat) / 4)

/-- `MakeAvg(ref, h, l)` (R172). -/
def makeAvg (ref : Wave) (h l : Half) : Wave := ⟨avg31 ref.high h, avg31 ref.low l⟩

end Sys2Proof.Machine
end

