-- ==== Sys2Proof/Machine/Ops.lean ====
section
/-! DEFINITION. The named operations over the byte arrays (20_memory.md rules R71, R72), the
bucket ring (41_bucket_ring.md rules R130 to R135), the traces, and `raise`, the one operation that
stands where a processor takes an exception: the core has no trap mechanism (R310), so it appends
a record and control does not change (R311). -/

namespace Sys2Proof.Machine

/-! ### Byte arrays -/

/-- The byte at an index; an unlisted index holds 0 (R340). -/
def Memory.read : Memory → Nat → Byte
  | [], _ => 0
  | (k, v) :: rest, i => if k = i then v else Memory.read rest i

/-- The array with a byte replaced, in canonical form: writing 0 removes the entry. -/
def Memory.write : Memory → Nat → Byte → Memory
  | [], i, v => if v = 0 then [] else [(i, v)]
  | (k, w) :: rest, i, v =>
    if i < k then (if v = 0 then (k, w) :: rest else (i, v) :: (k, w) :: rest)
    else if i = k then (if v = 0 then rest else (i, v) :: rest)
    else (k, w) :: Memory.write rest i v

/-- The canonical form of an array of `bound` bytes: indices strictly rising, each below `bound`,
no byte 0. -/
abbrev Memory.wf (bound : Nat) (m : Memory) : Prop :=
  m.Pairwise (fun c d => c.1 < d.1) ∧ ∀ c ∈ m, c.1 < bound ∧ c.2 ≠ 0

/-- `MemRead(region, i, 1)` (R13), with the fault of R71. -/
def memRead (cfg : Config) (m : Memory) (i : Nat) : Except Fault Byte :=
  if i < cfg.maxmsg then .ok (Memory.read m i) else .error .indexRange

/-- `MemWrite(region, i, 1, v)` (R13), with the fault of R71. -/
def memWrite (cfg : Config) (m : Memory) (i : Nat) (v : Byte) : Except Fault Memory :=
  if i < cfg.maxmsg then .ok (Memory.write m i v) else .error .indexRange

/-- The bytes `m[0..n)`: `n` MemReads in ascending order, which fault when one of them does. -/
def memSlice (cfg : Config) (m : Memory) (n : Nat) : Except Fault (List Byte) :=
  if n ≤ cfg.maxmsg then .ok ((List.range n).map (Memory.read m)) else .error .indexRange

/-- MemWrites of successive bytes from index `i` on. -/
def memFill (cfg : Config) (m : Memory) : Nat → List Byte → Except Fault Memory
  | _, [] => .ok m
  | i, v :: rest => do
    let m ← memWrite cfg m i v
    memFill cfg m (i + 1) rest

/-! ### Traces -/

/-- `raise <Notice>(info)` (R13, R311). -/
def raise (n : Notice) (s : State) : State := { s with notices := s.notices ++ [n] }

/-- `Emit` of bytes on the sink (R13). -/
def emit (bytes : List Byte) (s : State) : State := { s with sink := s.sink ++ bytes }

/-- `Hook(name, args)` (R13). -/
def hook (c : Call) (s : State) : State := { s with calls := s.calls ++ [c] }

/-- The code of a notice (R311). -/
def noticeCode : Notice → Nat
  | .refused _ => 1
  | .frameTooShort _ => 2
  | .dataOverrun _ => 3
  | .ringOverflow _ => 4
  | .pulseTooLong _ => 5
  | .demodMismatch _ => 6
  | .checkFail _ => 7
  | .duplicate _ => 8
  | .cancelled _ => 9

/-! ### The ring -/

/-- `bucket[i]`; an index outside `0..N−1` faults (log entry 11). -/
def bucketAt (s : State) (i : Byte) : Except Fault Bucket :=
  match s.buckets[i.toNat]? with
  | some b => .ok b
  | none => .error .indexRange

/-- The producer bucket `bucket[in]` (R44). -/
def producer (s : State) : Except Fault Bucket := bucketAt s s.inIdx

/-- The consumer bucket `bucket[out]` (R45). -/
def consumer (s : State) : Except Fault Bucket := bucketAt s s.outIdx

/-- `bucket[in] <- b`. -/
def setProducer (b : Bucket) (s : State) : State :=
  { s with buckets := s.buckets.set s.inIdx.toNat b }

/-- `ResetInput()` (R130). -/
def resetInput (s : State) : State :=
  { setProducer Bucket.cleared s with ocie := false, isNotRep := false }

/-- `Arm(v)` (R131). -/
def arm (v : Half) (s : State) : State := { s with ocr := v, ocie := true }

/-- `(i + 1) mod N` (R133, R134). -/
def ringSucc (c : Config) (i : Byte) : Byte := BitVec.ofNat 8 ((i.toNat + 1) % c.nBuckets)

/-- `RingFull()` (R135). -/
def ringFull (s : State) : Bool := s.nrUsed.toNat + 1 == s.cfg.nBuckets

/-- `Commit()` (R133). -/
def commit (s : State) : State :=
  { s with inIdx := ringSucc s.cfg s.inIdx, nrUsed := s.nrUsed + 1 }

/-- `Release()` (R134): the bucket is cleared before `out` moves past it. -/
def release (s : State) : State :=
  { s with
    buckets := s.buckets.set s.outIdx.toNat Bucket.cleared
    outIdx := ringSucc s.cfg s.outIdx
    nrUsed := s.nrUsed - 1 }

/-- `ClearRepeatFilter()` (R295). -/
def clearRepeatFilter (s : State) : State :=
  { s with roby := 0, robuf := [], repTime := 0, isRep := false, packageOK := false }

/-! ### The event stream -/

/-- The next event word and the state after it is consumed: the index "advances by exactly one per
event, whatever the event does" (R31). -/
def nextEvent (s : State) : Option (Word × State) :=
  match s.inputs with
  | [] => none
  | w :: rest => some (w, { s with inputs := rest, index := s.index + 1 })

/-- An illegal word changes no architectural state; the model records it (R96, R97). -/
def refuseWord (w : Word) (s : State) : State := raise (.refused w) { s with refused := true }

/-! ### Outcomes -/

/-- A handler's result as the outcome of its event: it completes (R318), or an index was outside
its array (R71). -/
def complete (r : Except Fault State) : Host.Outcome State Fault Refusal :=
  match r with
  | .ok s => .next s
  | .error f => .fault f

end Sys2Proof.Machine
end

