-- ==== Sys2Proof/Machine/Sync.lean ====
section
/-! DEFINITION. The sync detector (42_sync_detector.md): the decision table of a silent line, the
sync train, the preamble table, the router hand-off and the Revolt preamble. Each function takes
the producer bucket `b = bucket[in]` and the wave `(h, l)` of R114. -/

namespace Sys2Proof.Machine

/-- The value of a quantity of the bucket and the wave (R156). A formula may name `data[i]` with
`i ≥ MAXMSG`, a byte the bucket does not have: it reads as 0 and does not fault, since `ROUTER_SYNC` is
a total predicate (R7). DESIGN CHOICE, log entry 5; the exception to the fault of R71, log entry 11. -/
def routerQuantity (b : Bucket) (h l : Half) : RouterQuantity → Nat
  | .hightime => h.toNat
  | .lowtime => l.toNat
  | .state => b.state.code
  | .zeroHigh => b.zero.high.toNat
  | .zeroLow => b.zero.low.toNat
  | .oneHigh => b.one.high.toNat
  | .oneLow => b.one.low.toNat
  | .sync => b.sync.toNat
  | .byteIdx => b.byteIdx.toNat
  | .bitIdx => b.bitIdx.val
  | .dataByte i => (Memory.read b.data i).toNat

/-- The predicate a formula stands for (R156). -/
def routerFormulaHolds (b : Bucket) (h l : Half) : RouterSync → Bool
  | .never => false
  | .always => true
  | .within q lo hi =>
    decide (lo ≤ routerQuantity b h l q) && decide (routerQuantity b h l q ≤ hi)
  | .not p => !routerFormulaHolds b h l p
  | .and p q => routerFormulaHolds b h l p && routerFormulaHolds b h l q
  | .shape => Config.routerShape b h l

/-- The predicate `ROUTER_SYNC(b, h, l)` (R156). -/
def routerSyncHolds (c : Config) (b : Bucket) (h l : Half) : Bool :=
  routerFormulaHolds b h l c.routerSync

/-- Enter a data state with no bit held: `b.state <- st`, the cursors at 0 and 7, `data[0] <- 0`
(R150, R154, R185). -/
def startData (cfg : Config) (st : BucketState) (b : Bucket) : Except Fault Bucket := do
  let data ← memWrite cfg b.data 0 0
  .ok { b with state := st, byteIdx := 0, bitIdx := 7, data := data }

/-- The wave is in the TCM97001 row's windows (R150 row 1). -/
def inTcmSync (h l : Half) : Bool :=
  decide (26 ≤ h.toNat) && decide (h.toNat ≤ 33) && decide (531 ≤ l.toNat) && decide (l.toNat ≤ 562)

/-- The wave is in the Intertechno row's windows (R150 row 2). -/
def inItSync (h l : Half) : Bool :=
  decide (8 ≤ h.toNat) && decide (h.toNat ≤ 37) && decide (156 ≤ l.toNat) && decide (l.toNat ≤ 1062)

/-- `SyncDetect(b)` (R150), the rows in the table's order. -/
def syncDetect (b : Bucket) (h l : Half) (s : State) : Except Fault State :=
  if inTcmSync h l then do
    let b ← startData s.cfg .tcm97001 b
    .ok (arm SILENCE_TCM (setProducer b s))
  else if inItSync h l then do
    let b ← startData s.cfg .it b
    .ok (arm SILENCE (setProducer b s))
  else if 100 < h.toNat ∨ 100 < l.toNat then
    .ok s
  else
    .ok (arm SILENCE (setProducer { b with zero := ⟨h, l⟩, sync := 1, state := .sync } s))

/-- `RouterHandoff(b)` (R156): record the bucket, then reset the input; no silence reload. -/
def routerHandoff (b : Bucket) (s : State) : State := resetInput (hook (.rfRouterAccept b) s)

/-- Enter the data state a preamble names: the trailing wave becomes `one` and is no bit (R154). -/
def lockOn (st : BucketState) (silence : Half) (b : Bucket) (h l : Half) (s : State) :
    Except Fault State := do
  let b ← startData s.cfg st { b with one := ⟨h, l⟩ }
  .ok (arm silence (setProducer b s))

/-- `Classify(b)` (R154), the preamble table in order. -/
def classify (b : Bucket) (h l : Half) (s : State) : Except Fault State :=
  let sum := b.zero.high.toNat + b.zero.low.toNat
  if 12 ≤ b.sync.toNat ∧ 100 < sum then lockOn .hms SILENCE b h l s
  else if 10 ≤ b.sync.toNat ∧ sum < 37 then lockOn .esa SILENCE_ESA b h l s
  else if routerSyncHolds s.cfg b h l then .ok (routerHandoff b s)
  else lockOn .collect SILENCE b h l s

/-- `SyncStep(b)` (R153); after fewer than 4 sync pulses the bucket is reset and the table rerun
once on the same wave (R155). -/
def syncStep (b : Bucket) (h l : Half) (s : State) : Except Fault State :=
  if waveEquals b.zero h l .sync then
    .ok (setProducer { b with zero := makeAvg b.zero h l, sync := b.sync + 1 } s)
  else if 4 ≤ b.sync.toNat then
    classify b h l s
  else
    syncDetect Bucket.cleared h l (resetInput s)

/-- `RevoltPreamble(h, l)` (R158): open intervals. -/
def revoltPreamble (h l : Half) : Bool :=
  decide (562 < h.toNat) && decide (h.toNat < 750) && decide (9 < l.toNat) && decide (l.toNat < 33)

/-- `EnterRevolt(b)` (R159): the bucket is cleared without `ResetInput`. -/
def enterRevolt (s : State) : State :=
  arm SILENCE (setProducer
    { Bucket.cleared with
      state := .revolt, zero := s.cfg.revoltZero, one := s.cfg.revoltOne, sync := 1 } s)

end Sys2Proof.Machine
end

