-- ==== Sys2Proof/Machine/Demod.lean ====
section
/-! DEFINITION. The bit demodulator (43_bit_demodulator.md): the bit write, the rule of each data
state, and the Manchester rule of HMS and ESA. -/

namespace Sys2Proof.Machine

/-- `AddBit(b, bit)` on the bucket alone (R180): `none` when `byteIdx` is at MAXMSG, the overrun. -/
def pushBit (cfg : Config) (b : Bucket) (bit : Bool) : Except Fault (Option Bucket) :=
  if cfg.maxmsg ≤ b.byteIdx.toNat then .ok none
  else do
    let data ←
      if bit then do
        let v ← memRead cfg b.data b.byteIdx.toNat
        memWrite cfg b.data b.byteIdx.toNat (v ||| (1#8 <<< b.bitIdx.val))
      else .ok b.data
    if b.bitIdx = 0 then do
      let next := b.byteIdx + 1
      let data ← if next.toNat < cfg.maxmsg then memWrite cfg data next.toNat 0 else .ok data
      .ok (some { b with data := data, byteIdx := next, bitIdx := 7 })
    else
      .ok (some { b with data := data, bitIdx := b.bitIdx - 1 })

/-- `AddBit(b, bit)` on the machine (R180): on OK the caller's update `onOk` of the bucket follows;
on an overrun the notice is raised and the input reset. -/
def addBit (b : Bucket) (bit : Bool) (onOk : Bucket → Bucket) (s : State) : Except Fault State := do
  match ← pushBit s.cfg b bit with
  | some b => .ok (setProducer (onOk b) s)
  | none => .ok (resetInput (raise (.dataOverrun s.inIdx) s))

/-- `AddBit(b, 1)`, and on OK `b.one <- MakeAvg(b.one, h, l)` (R182, R184, R189). -/
def addOne (b : Bucket) (h l : Half) (s : State) : Except Fault State :=
  addBit b true (fun b => { b with one := makeAvg b.one h l }) s

/-- `AddBit(b, 0)`, and on OK `b.zero <- MakeAvg(b.zero, h, l)` (R182, R184, R189). -/
def addZero (b : Bucket) (h l : Half) (s : State) : Except Fault State :=
  addBit b false (fun b => { b with zero := makeAvg b.zero h l }) s

/-- `CollectStep(b)` (R182): `one` is tested first; a mismatch resets the bucket. -/
def collectStep (b : Bucket) (h l : Half) (s : State) : Except Fault State :=
  if waveEquals b.one h l .collect then addOne b h l s
  else if waveEquals b.zero h l .collect then addZero b h l s
  else .ok (resetInput (raise (.demodMismatch s.inIdx) s))

/-- The bucket holds no bit: `byteIdx = 0`, `bitIdx = 7` (R184, R186). -/
def holdsNoBit (b : Bucket) : Bool := decide (b.byteIdx = 0) && decide (b.bitIdx = 7)

/-- The start marker of R185: `l > 150`. -/
def isStartMarker (l : Half) : Bool := decide (150 < l.toNat)

/-- `l − 1 > h` in exact integers (R185). -/
def lowIsLonger (h l : Half) : Bool := decide ((l.toNat : Int) - 1 > h.toNat)

/-- The reference assignments of `ItInitialEdge(b)` (R185): the second branch is state ITV3, its
`zero.low = 5·h` kept verbatim. -/
def initialRefs (b : Bucket) (h l : Half) : Bucket :=
  if b.state = .it then
    if lowIsLonger h l then { b with zero := ⟨h, l⟩, one := ⟨l, h⟩ }
    else { b with one := ⟨h, l⟩, zero := ⟨l, h⟩ }
  else
    if lowIsLonger h l then { b with one := ⟨h, l⟩, zero := ⟨h, h⟩ }
    else { b with zero := ⟨h, BitVec.ofNat 16 (5 * h.toNat)⟩, one := ⟨h, l⟩ }

/-- The start marker's effect (R185): ITV3 with no bit held, and the silence reload. -/
def enterItv3 (b : Bucket) (s : State) : Except Fault State := do
  let b ← startData s.cfg .itv3 b
  .ok (arm SILENCE (setProducer b s))

/-- The IT comparison (R184): a wave that matches neither reference is ignored. -/
def itCompare (b : Bucket) (h l : Half) (s : State) : Except Fault State :=
  if waveEquals b.one h l .it then addOne b h l s
  else if waveEquals b.zero h l .it then addZero b h l s
  else .ok s

/-- `ItStep(b)` (R184), the initial edge first (R185). -/
def itStep (b : Bucket) (h l : Half) (s : State) : Except Fault State :=
  if holdsNoBit b then
    if isStartMarker l then enterItv3 b s
    else
      let b := initialRefs b h l
      itCompare b h l (setProducer b s)
  else itCompare b h l s

/-- The ITV3 bit: `(l − 12) > h` in exact integers (R186). -/
def itv3Bit (h l : Half) : Bool := decide ((l.toNat : Int) - TDIFF > h.toNat)

/-- `Itv3Step(b)` (R186), the initial edge first (R185). -/
def itv3Step (b : Bucket) (h l : Half) (s : State) : Except Fault State :=
  if holdsNoBit b then
    if isStartMarker l then enterItv3 b s
    else
      let b := initialRefs b h l
      addBit b (itv3Bit h l) id (setProducer b s)
  else addBit b (itv3Bit h l) id s

/-- `TcmStep(b)` (R188): open windows of scaled counts; any other low time is ignored. -/
def tcmStep (b : Bucket) (l : Half) (s : State) : Except Fault State :=
  if 110 < l.toNat ∧ l.toNat < 140 then addBit b false id s
  else if 230 < l.toNat ∧ l.toNat < 270 then addBit b true id s
  else .ok s

/-- `RevoltStep(b)` (R189): every wave is a bit. -/
def revoltStep (b : Bucket) (h l : Half) (s : State) : Except Fault State :=
  if h.toNat < 11 then addZero b h l s else addOne b h l s

/-- What the Manchester rule made of an edge (R190). -/
inductive EdgeResult where
  /-- CONSUMED: the edge's handler returns. -/
  | consumed (s : State)
  /-- FALLTHROUGH: the edge continues in the generic path. -/
  | fallthrough (s : State)
deriving Repr

/-- The window of R190: [46, 78] in HMS, [23, 39] in ESA. -/
def manchesterWindow (st : BucketState) : Nat × Nat := if st = .hms then (46, 78) else (23, 39)

/-- `ManchesterEdge(b, level, c)` (R190): a falling edge is a 1, a rising edge a 0. -/
def manchesterEdge (b : Bucket) (level : Bool) (c : Half) (s : State) : Except Fault EdgeResult :=
  if c.toNat < (manchesterWindow b.state).1 then .ok (.consumed s)
  else if (manchesterWindow b.state).2 < c.toNat then
    .ok (.fallthrough (resetInput (raise (.pulseTooLong s.inIdx) s)))
  else do
    let s ← addBit b (!level) id s
    .ok (.consumed { s with tcnt := 0 })

end Sys2Proof.Machine
end

