-- ==== Sys2Proof/Machine/Silence.lean ====
section
/-! DEFINITION. The silence timer (44_silence_timer.md): the compare interrupt's handler and the
event SILENCE_TIMEOUT. -/

namespace Sys2Proof.Machine

/-- `FalseAlarm(b)` (R201): "not yet in COLLECT", or fewer than 2 complete bytes. -/
def falseAlarm (b : Bucket) : Bool :=
  decide (b.state.code < BucketState.collect.code) || decide (b.byteIdx.toNat < 2)

/-- The line `BOVF` CR LF (R203). -/
def bovfLine : List Byte := [0x42, 0x4F, 0x56, 0x46, 0x0D, 0x0A]

/-- `OverflowLine()` (R203). -/
def overflowLine (s : State) : State :=
  if reportFlag s.txReport REP_BITS then emit bovfLine s else s

/-- `SilenceHandler()` (R200): disarm at entry; a false alarm is tested before the full ring. -/
def silenceHandler (s : State) : Except Fault State := do
  let s := { s with ocie := false }
  let b ← producer s
  if falseAlarm b then
    .ok (resetInput (raise (.frameTooShort s.inIdx) s))
  else if ringFull s then
    .ok (overflowLine (resetInput (raise (.ringOverflow s.inIdx) s)))
  else
    .ok (commit s)

/-- `SILENCE_TIMEOUT` (R200): no effect while the compare interrupt is not enabled. -/
def execSilenceTimeout (s : State) : Host.Outcome State Fault Refusal :=
  complete (if s.ocie then silenceHandler s else .ok s)

end Sys2Proof.Machine
end

