-- ==== Sys2Proof/Machine/Capture.lean ====
section
/-! DEFINITION. The timer and the edge capture (40_edge_capture.md): TICK_US, EDGE_FALL and
EDGE_RISE. -/

namespace Sys2Proof.Machine

/-! ### The timer -/

/-- One microsecond of R110's loop: increment, and take the compare interrupt on a match. -/
def tickOne (s : State) : Except Fault State :=
  let s := { s with tcnt := s.tcnt + 1 }
  if s.ocie && s.tcnt == s.ocr then silenceHandler s else .ok s

/-- R110's loop as the rule writes it, `n` microseconds. `tickBy` computes the same (the statement
TickUsIsTheMicrosecondLoop); log entry 13. -/
def tickLoop : Nat → State → Except Fault State
  | 0, s => .ok s
  | n + 1, s => do
    let s ← tickOne s
    tickLoop n s

/-- `n` microseconds (R110): when the compare is enabled and TCNT reaches OCR among them, the silence
handler runs at that microsecond, once, since it clears OCIE; then the rest elapse. -/
def tickBy (n : Half) (s : State) : Except Fault State :=
  let d := s.ocr - s.tcnt
  if s.ocie ∧ 0 < d.toNat ∧ d.toNat ≤ n.toNat then do
    let s ← silenceHandler { s with tcnt := s.ocr }
    .ok { s with tcnt := s.tcnt + (n - d) }
  else .ok { s with tcnt := s.tcnt + n }

/-- `TICK_US n` (R110). -/
def execTickUs (imm : Half) (s : State) : Host.Outcome State Fault Refusal :=
  complete (tickBy imm s)

/-! ### Edges -/

/-- The Manchester rule where the producer bucket is in HMS or ESA; in any other state the edge goes
to the generic path (R112, R113). -/
def manchesterFirst (level : Bool) (c : Half) (s : State) : Except Fault EdgeResult := do
  let b ← producer s
  if b.state = .hms ∨ b.state = .esa then manchesterEdge b level c s
  else .ok (.fallthrough s)

/-- `EDGE_FALL` (R112): the count is stored and the timer is not reset. -/
def fallHandler (s : State) : Except Fault State := do
  let c := scale s.cfg s.tcnt
  match ← manchesterFirst false c s with
  | .consumed s => .ok s
  | .fallthrough s => .ok { s with hightime := c }

/-- `Dispatch(b)` (R115), one row per state of the producer bucket. -/
def dispatch (b : Bucket) (h l : Half) (s : State) : Except Fault State :=
  match b.state with
  | .reset => syncDetect b h l s
  | .init => .ok s
  | .sync => syncStep b h l s
  | .collect => collectStep b h l s
  | .hms => .ok s
  | .esa => .ok s
  | .revolt => revoltStep b h l s
  | .it => itStep b h l s
  | .tcm97001 => tcmStep b l s
  | .itv3 => itv3Step b h l s

/-- The generic path of a rising edge (R113): capture, timer to 0, Revolt preamble, dispatch. -/
def riseGeneric (c : Half) (s : State) : Except Fault State := do
  let s := { s with lowtime := lowTimeOf s.cfg c s.hightime, tcnt := 0 }
  if revoltPreamble s.hightime s.lowtime then .ok (enterRevolt s)
  else do
    let b ← producer s
    dispatch b s.hightime s.lowtime s

/-- `EDGE_RISE` (R113). -/
def riseHandler (s : State) : Except Fault State := do
  let c := scale s.cfg s.tcnt
  match ← manchesterFirst true c s with
  | .consumed s => .ok s
  | .fallthrough s => riseGeneric c s

/-- `EDGE_FALL` (R112). -/
def execEdgeFall (s : State) : Host.Outcome State Fault Refusal := complete (fallHandler s)

/-- `EDGE_RISE` (R113). -/
def execEdgeRise (s : State) : Host.Outcome State Fault Refusal := complete (riseHandler s)

end Sys2Proof.Machine
end

