-- ==== Sys2Proof/Machine/Control.lean ====
section
/-! DEFINITION. Host control and input registers (47_host_control.md), and the reset event
(70_reset_and_hazards.md rule R341). -/

namespace Sys2Proof.Machine

/-- The bucket was in progress: not in RESET, or holding a bit (R290, R291). -/
def inProgress (b : Bucket) : Bool := decide (b.state ≠ .reset) || decide (0 < b.bitCount)

/-- Re-entry of receive (R290, R291): the cancellation notice, `ResetInput`, `ClearRepeatFilter`. -/
def reenterReceive (s : State) : Except Fault State := do
  let b ← producer s
  let s := if inProgress b then raise (.cancelled s.inIdx) s else s
  .ok (clearRepeatFilter (resetInput s))

/-- `CONFIGURE v` (R290). -/
def execConfigure (imm : Half) (s : State) : Host.Outcome State Fault Refusal :=
  complete (reenterReceive { s with txReport := operandByte imm })

/-- `RX_RESET` (R291). -/
def execRxReset (s : State) : Host.Outcome State Fault Refusal := complete (reenterReceive s)

/-- `TICKS_ADV n` (R292). -/
def execTicksAdv (imm : Half) (s : State) : Host.Outcome State Fault Refusal :=
  complete (.ok { s with ticks := s.ticks + operandCount imm })

/-- `SET_RSSI v` (R293). -/
def execSetRssi (imm : Half) (s : State) : Host.Outcome State Fault Refusal :=
  complete (.ok { s with rssi := operandByte imm })

/-- `HW_RESET` (R341): every element at its reset value, the output traces kept. The parameters are
not changed by reset (R340); the event stream and its index go on (log entry 2). -/
def hwReset (s : State) : State :=
  { State.powerOn s.cfg with
    inputs := s.inputs, index := s.index
    sink := s.sink, calls := s.calls, notices := s.notices }

/-- `HW_RESET` (R341). -/
def execHwReset (s : State) : Host.Outcome State Fault Refusal := complete (.ok (hwReset s))

end Sys2Proof.Machine
end

