-- ==== Sys2Proof/Machine/Extractor.lean ====
section
/-! DEFINITION. The consumer's scratch, the bit views of a bucket (45_frame_analyzers.md rules R214
to R216) and the generic bit-serial extractor `GX` (R223, R224). -/

namespace Sys2Proof.Machine

/-- `obuf`, `oby` and `nibble` while the analyzers run (R47). -/
structure Scratch where
  obuf : Memory
  oby : Byte
  nibble : Bool
deriving DecidableEq, Repr

/-- The scratch an analyzer begins with once its gate holds (R213). -/
def clearedScratch : Scratch := ⟨[], 0, false⟩

/-- What an analyzer leaves: the scratch, and on OK the datatype it sets (R212, R213). -/
structure Analysis where
  scratch : Scratch
  verdict : Option Datatype
deriving DecidableEq, Repr

/-! ### Bit views -/

/-- `Bit(b, k)` (R214). -/
def bucketBit (b : Bucket) (k : Nat) : Bool := (Memory.read b.data (k / 8)).getLsbD (7 - k % 8)

/-- `S(b)`, the bucket's bits in stream order (R214); faults when a bit lies past the array (R71). -/
def bitStream (cfg : Config) (b : Bucket) : Except Fault (List Bool) :=
  if b.bitCount ≤ 8 * cfg.maxmsg then .ok ((List.range b.bitCount).map (bucketBit b))
  else .error .indexRange

/-- A list of bits as a number, the first the most significant (R215). -/
def bitsValue (bits : List Bool) : Nat := bits.foldl (fun acc bit => 2 * acc + bit.toNat) 0

/-- `GetBits(S, k, n)` (R215). -/
def getBits (S : List Bool) (k n : Nat) : Nat := bitsValue ((S.drop k).take n)

/-- `GetBits(S, k, 8)` as a byte. -/
def getByte (S : List Bool) (k : Nat) : Byte := BitVec.ofNat 8 (getBits S k 8)

/-- `S[k]`; an analyzer's gate keeps `k` below `|S|` (R215). -/
def bitAt (S : List Bool) (k : Nat) : Bool := S.getD k false

/-- `ProjectedBit(b)` (R216), from the capture register as it stands at the poll (R352). -/
def projectedBit (hightime : Half) (b : Bucket) : Bool :=
  waveEquals b.one hightime b.one.low b.state

/-- `S⁺(b) = S(b) ++ [ProjectedBit(b)]` (R216). -/
def extendedStream (cfg : Config) (hightime : Half) (b : Bucket) : Except Fault (List Bool) := do
  let S ← bitStream cfg b
  .ok (S ++ [projectedBit hightime b])

/-! ### The extractor -/

/-- The three protocols `GX` serves (R223). -/
inductive GxKind where
  | fs20 | em | ks300
deriving DecidableEq, Repr

/-- The extractor's variables; `obi` is the signed counter of R223, −1 to 7. -/
structure Gx where
  scratch : Scratch
  obi : Int
deriving DecidableEq, Repr

/-- The extractor went on, or it returned FAIL with the scratch as it stood. -/
inductive GxResult where
  | more (g : Gx)
  | fail (sc : Scratch)
deriving DecidableEq, Repr

/-- `oby <- oby + 1; obuf[oby] <- 0; obi <- 7`: begin the next output byte (R223). -/
def gxNextByte (cfg : Config) (g : Gx) : Except Fault GxResult := do
  let oby := g.scratch.oby + 1
  let obuf ← memWrite cfg g.scratch.obuf oby.toNat 0
  .ok (.more ⟨⟨obuf, oby, g.scratch.nibble⟩, 7⟩)

/-- The in-band check bit after 8 data bits (R223): FS20's even parity, EM's stop bit. -/
def gxCheckBit (cfg : Config) (t : GxKind) (bit : Bool) (g : Gx) : Except Fault GxResult :=
  match t with
  | .fs20 => do
    let v ← memRead cfg g.scratch.obuf g.scratch.oby.toNat
    if bit = parity v then gxNextByte cfg g else .ok (.fail g.scratch)
  | .em => if bit then gxNextByte cfg g else .ok (.fail g.scratch)
  | .ks300 => gxNextByte cfg g

/-- A data bit (R223): FS20 fills MSB first, EM and KS300 LSB first. -/
def gxDataBit (cfg : Config) (t : GxKind) (bit : Bool) (g : Gx) : Except Fault GxResult :=
  if bit then do
    let v ← memRead cfg g.scratch.obuf g.scratch.oby.toNat
    let pos := if t = .fs20 then g.obi.toNat else (7 - g.obi).toNat
    let obuf ← memWrite cfg g.scratch.obuf g.scratch.oby.toNat (v ||| (1#8 <<< pos))
    .ok (.more ⟨⟨obuf, g.scratch.oby, g.scratch.nibble⟩, g.obi - 1⟩)
  else .ok (.more ⟨g.scratch, g.obi - 1⟩)

/-- One bit of `GX`'s loop (R223), KS300's separators first (R224). -/
def gxStep (cfg : Config) (t : GxKind) (bit : Bool) (g : Gx) : Except Fault GxResult :=
  if t = .ks300 ∧ g.obi = -1 then
    if bit = false then .ok (.fail g.scratch) else gxNextByte cfg g
  else if t = .ks300 ∧ g.obi = 3 ∧ g.scratch.nibble = false then
    if bit = false then .ok (.fail g.scratch)
    else .ok (.more ⟨⟨g.scratch.obuf, g.scratch.oby, true⟩, g.obi⟩)
  else
    let g : Gx :=
      if t = .ks300 ∧ g.obi = 3 then ⟨⟨g.scratch.obuf, g.scratch.oby, false⟩, g.obi⟩ else g
    if g.obi = -1 then gxCheckBit cfg t bit g else gxDataBit cfg t bit g

/-- `GX`'s loop over the stream (R223). -/
def gxLoop (cfg : Config) (t : GxKind) : List Bool → Gx → Except Fault GxResult
  | [], g => .ok (.more g)
  | bit :: rest, g => do
    match ← gxStep cfg t bit g with
    | .more g => gxLoop cfg t rest g
    | .fail sc => .ok (.fail sc)

/-- After the stream (R223): EM's last byte counts although its stop bit is absent (G-7, log entry 7). -/
def gxFinish (t : GxKind) (g : Gx) : Scratch :=
  if t = .em ∧ g.obi = -1 then ⟨g.scratch.obuf, g.scratch.oby + 1, g.scratch.nibble⟩
  else g.scratch

/-- The bits of an incomplete last group leave the scratch: they "are ignored" (R223, corner case), and
`obuf` is 0 beyond the item count of a classified frame (R260, R264). A half byte that counts as an item
stays (R224). DEDUCED, log entry 16. -/
def gxDropPartial (cfg : Config) (sc : Scratch) : Except Fault Scratch :=
  if sc.nibble then .ok sc
  else do
    let obuf ← memWrite cfg sc.obuf sc.oby.toNat 0
    .ok ⟨obuf, sc.oby, sc.nibble⟩

/-- `GX(S, t)` (R223): the scratch it leaves, and whether it returned OK. -/
def gx (cfg : Config) (t : GxKind) (S : List Bool) : Except Fault (Scratch × Bool) := do
  let obuf ← memWrite cfg [] 0 0
  match ← gxLoop cfg t S ⟨⟨obuf, 0, false⟩, 7⟩ with
  | .fail sc => .ok (sc, false)
  | .more g =>
    let sc := gxFinish t g
    if sc.oby = 0 ∧ sc.nibble = false then .ok (sc, false)
    else do
      let sc ← gxDropPartial cfg sc
      .ok (sc, true)

end Sys2Proof.Machine
end

