-- ==== Sys2Proof/Machine/Analyzers.lean ====
section
/-! DEFINITION. The ten frame analyzers (45_frame_analyzers.md rules R217 to R234) and their fixed
order (R212). Each takes the scratch it finds, leaves it unwritten when its gate fails, and begins
from the cleared scratch when its gate holds (R213). -/

namespace Sys2Proof.Machine

/-- OK with a payload copied to `obuf[0..)` (R213). -/
def acceptBytes (cfg : Config) (dt : Datatype) (bytes : List Byte) : Except Fault Analysis := do
  let obuf ← memFill cfg [] 0 bytes
  .ok ⟨⟨obuf, BitVec.ofNat 8 bytes.length, false⟩, some dt⟩

/-- Analyzer 1, IT and ITV3 (R217). -/
def analyzeIt (cfg : Config) (b : Bucket) (sc : Scratch) : Except Fault Analysis :=
  if b.state = .it ∨ b.state = .itv3 then
    if (b.byteIdx = 3 ∧ b.bitIdx = 7) ∨ (b.byteIdx = 8 ∧ b.bitIdx = 7) then do
      let bytes ← memSlice cfg b.data b.byteIdx.toNat
      acceptBytes cfg .it bytes
    else .ok ⟨clearedScratch, none⟩
  else .ok ⟨sc, none⟩

/-- Analyzer 2, TCM97001 (R218). -/
def analyzeTcm (cfg : Config) (b : Bucket) (sc : Scratch) : Except Fault Analysis :=
  if b.state = .tcm97001 then
    if b.byteIdx = 3 ∧ b.bitIdx = 7 then do
      let bytes ← memSlice cfg b.data 3
      acceptBytes cfg .tcm97001 bytes
    else .ok ⟨clearedScratch, none⟩
  else .ok ⟨sc, none⟩

/-- Analyzer 3, Revolt (R219): 103 bits, the sum of `data[0..10]` in `data[11]`. -/
def analyzeRevolt (cfg : Config) (b : Bucket) (sc : Scratch) : Except Fault Analysis :=
  if b.state = .revolt then
    if b.byteIdx = 12 ∧ b.bitIdx = 0 then do
      let bytes ← memSlice cfg b.data 12
      let trailer ← memRead cfg b.data 11
      if cksum1 0 (bytes.take 11) = trailer then acceptBytes cfg .revolt bytes
      else .ok ⟨clearedScratch, none⟩
    else .ok ⟨clearedScratch, none⟩
  else .ok ⟨sc, none⟩

/-- The ESA cipher (R221): each raw byte XOR the rolling salt, the last byte also XOR 0xFF. -/
def esaCipher : Byte → List Byte → List Byte
  | _, [] => []
  | salt, [r] => [r ^^^ salt ^^^ 0xFF]
  | salt, r :: rest => (r ^^^ salt) :: esaCipher (r + 0x24) rest

/-- The raw bytes `r_i = GetBits(S, 8i, 8)`, `0 ≤ i ≤ NB` (R220). -/
def esaRaw (cfg : Config) (S : List Bool) : List Byte :=
  (List.range (esaDataBytes cfg.esaBitLen + 1)).map fun i => getByte S (8 * i)

/-- The trailer `T = GetBits(S, 8·NB + 8, 16)`, first received byte high (R220). -/
def esaTrailer (cfg : Config) (S : List Bool) : Half :=
  BitVec.ofNat 16 (getBits S (8 * esaDataBytes cfg.esaBitLen + 8) 16)

/-- Analyzer 4, ESA (R220 to R222): the scratch holds the deciphered bytes before the check. -/
def analyzeEsa (cfg : Config) (b : Bucket) (sc : Scratch) : Except Fault Analysis :=
  if b.state = .esa ∧ b.bitCount = esaBits cfg.esaBitLen then do
    let S ← bitStream cfg b
    let raw := esaRaw cfg S
    let obuf ← memFill cfg [] 0 (esaCipher 0x89 raw)
    let out : Scratch := ⟨obuf, BitVec.ofNat 8 (esaDataBytes cfg.esaBitLen + 1), false⟩
    if cfg.esaCrc + sum16 raw - esaTrailer cfg S = 0 then .ok ⟨out, some .esa⟩
    else .ok ⟨out, none⟩
  else .ok ⟨sc, none⟩

/-- Analyzer 5, FS20 and FHT (R226): the trailer against `c6`, the repeater's `c6 + 1`, which is
rewritten to `c6` (R227), and `c12`, in order. -/
def analyzeFs20 (cfg : Config) (b : Bucket) : Except Fault Analysis := do
  let S ← bitStream cfg b
  match ← gx cfg .fs20 S with
  | (sc, false) => .ok ⟨sc, none⟩
  | (sc, true) =>
    let last := sc.oby.toNat - 1
    let t ← memRead cfg sc.obuf last
    let payload ← memSlice cfg sc.obuf last
    if cksum1 6 payload = t then .ok ⟨sc, some .fs20⟩
    else if cksum1 6 payload + 1 = t then do
      let obuf ← memWrite cfg sc.obuf last (cksum1 6 payload)
      .ok ⟨⟨obuf, sc.oby, sc.nibble⟩, some .fs20⟩
    else if cksum1 12 payload = t then .ok ⟨sc, some .fht⟩
    else .ok ⟨sc, none⟩

/-- Analyzer 6, EM (R228): nine payload bytes and their XOR. -/
def analyzeEm (cfg : Config) (b : Bucket) : Except Fault Analysis := do
  let S ← bitStream cfg b
  match ← gx cfg .em S with
  | (sc, false) => .ok ⟨sc, none⟩
  | (sc, true) =>
    if sc.oby ≠ 10 then .ok ⟨sc, none⟩
    else do
      let payload ← memSlice cfg sc.obuf 9
      let t ← memRead cfg sc.obuf 9
      if xorBytes payload = t then .ok ⟨sc, some .em⟩ else .ok ⟨sc, none⟩

/-- The six data bytes of an HMS frame (R229), from group `i` on: each byte, its even parity and a
literal 0. The result is `obuf`, the running XOR, and whether every group passed. -/
def hmsGroups (cfg : Config) (S : List Bool) : List Nat → Memory → Byte →
    Except Fault (Memory × Byte × Bool)
  | [], obuf, x => .ok (obuf, x, true)
  | i :: rest, obuf, x =>
    let v := getByte S (10 * i)
    if bitAt S (10 * i + 8) ≠ parity v then .ok (obuf, x, false)
    else if bitAt S (10 * i + 9) ≠ false then .ok (obuf, x, false)
    else do
      let obuf ← memWrite cfg obuf i v
      hmsGroups cfg S rest obuf (x ^^^ v)

/-- Analyzer 7, HMS (R229). -/
def analyzeHms (cfg : Config) (b : Bucket) (sc : Scratch) : Except Fault Analysis :=
  if 69 ≤ b.bitCount then do
    let S ← bitStream cfg b
    let (obuf, x, passed) ← hmsGroups cfg S (List.range 6) [] 0
    let crc := getByte S 60
    if passed && bitAt S 68 == parity crc && x == crc then .ok ⟨⟨obuf, 6, false⟩, some .hms⟩
    else .ok ⟨⟨obuf, 0, false⟩, none⟩
  else .ok ⟨sc, none⟩

/-- The nibbles of bytes, high nibble first (R231). -/
def nibblesHiLo (bytes : List Byte) : List (BitVec 4) :=
  bytes.flatMap fun v => [hiNibble v, loNibble v]

/-- The nibbles of bytes, low nibble first (R232). -/
def nibblesLoHi (bytes : List Byte) : List (BitVec 4) :=
  bytes.flatMap fun v => [loNibble v, hiNibble v]

/-- The sum of nibbles mod 16, from a start value. -/
def nibbleSum (s : BitVec 4) (q : List (BitVec 4)) : BitVec 4 := q.foldl (· + ·) s

/-- The XOR of nibbles. -/
def nibbleXor (q : List (BitVec 4)) : BitVec 4 := q.foldl (· ^^^ ·) 0

/-- `TX3Check()` (R231): the first nine nibbles sum to the tenth mod 16. -/
def tx3Check (bytes : List Byte) : Bool :=
  nibbleSum 0 ((nibblesHiLo bytes).take 9) == (nibblesHiLo bytes).getD 9 0

/-- The five bytes of a TX3 frame (R230): bit 7 of the first is forced to 1, the fifth is 7 bits. -/
def tx3Bytes (S : List Bool) : List Byte :=
  [0x80 ||| BitVec.ofNat 8 (getBits S 0 7), getByte S 7, getByte S 15, getByte S 23,
    BitVec.ofNat 8 (getBits S 31 7) <<< 1]

/-- Analyzer 8, TX3 (R230): `obuf[0]` is written before the first nibble is tested. -/
def analyzeTx3 (cfg : Config) (b : Bucket) (sc : Scratch) : Except Fault Analysis :=
  if b.byteIdx = 4 ∧ b.bitIdx = 1 then do
    let S ← bitStream cfg b
    let bytes := tx3Bytes S
    if hiNibble (bytes.headD 0) ≠ 0xA then do
      let obuf ← memFill cfg [] 0 (bytes.take 1)
      .ok ⟨⟨obuf, 0, false⟩, none⟩
    else do
      let obuf ← memFill cfg [] 0 bytes
      if tx3Check bytes then .ok ⟨⟨obuf, 5, false⟩, some .tx3⟩
      else .ok ⟨⟨obuf, 0, false⟩, none⟩
  else .ok ⟨sc, none⟩

/-- `KS300Check(Q)` (R233), for `|Q| ≥ 3`. -/
def ks300Check (y0 : BitVec 4) (q : List (BitVec 4)) : Bool :=
  let d := q.take (q.length - 2)
  let x := nibbleXor d
  q.getD (q.length - 2) 0 == x && q.getD (q.length - 1) 0 == nibbleSum y0 d + x

/-- The nibble items `Q` in stream order (R232). -/
def ks300Items (cfg : Config) (sc : Scratch) : Except Fault (List (BitVec 4)) := do
  let bytes ← memSlice cfg sc.obuf sc.oby.toNat
  if sc.nibble then do
    let v ← memRead cfg sc.obuf sc.oby.toNat
    .ok (nibblesLoHi bytes ++ [loNibble v])
  else .ok (nibblesLoHi bytes)

/-- Analyzer 9, KS300 (R232), on the stream with the projected bit (R216). -/
def analyzeKs300 (cfg : Config) (hightime : Half) (b : Bucket) : Except Fault Analysis := do
  let S ← extendedStream cfg hightime b
  match ← gx cfg .ks300 S with
  | (sc, false) => .ok ⟨sc, none⟩
  | (sc, true) =>
    let q ← ks300Items cfg sc
    if q.length < 3 then .ok ⟨sc, none⟩
    else if ks300Check cfg.ks300Y0 q then .ok ⟨sc, some .ks300⟩
    else .ok ⟨sc, none⟩

/-- Analyzer 10, Hörmann (R234): 35 bits and a `zero` like (60, 30); every gated bucket is accepted,
with the projected bit as its 36th. -/
def analyzeHoermann (cfg : Config) (hightime : Half) (b : Bucket) (sc : Scratch) :
    Except Fault Analysis :=
  if b.byteIdx = 4 ∧ b.bitIdx = 4 ∧ waveEquals b.zero 60 30 b.state then do
    let S ← extendedStream cfg hightime b
    let bytes := (List.range 4).map fun i => getByte S (8 * i)
    acceptBytes cfg .hoermann (bytes ++ [BitVec.ofNat 8 (getBits S 32 4) <<< 4])
  else .ok ⟨sc, none⟩

/-- The analyzer of each name. -/
def analyze (a : Analyzer) (cfg : Config) (hightime : Half) (b : Bucket) (sc : Scratch) :
    Except Fault Analysis :=
  match a with
  | .it => analyzeIt cfg b sc
  | .tcm97001 => analyzeTcm cfg b sc
  | .revolt => analyzeRevolt cfg b sc
  | .esa => analyzeEsa cfg b sc
  | .fs20 => analyzeFs20 cfg b
  | .em => analyzeEm cfg b
  | .hms => analyzeHms cfg b sc
  | .tx3 => analyzeTx3 cfg b sc
  | .ks300 => analyzeKs300 cfg hightime b
  | .hoermann => analyzeHoermann cfg hightime b sc

/-- The fixed order (R212). -/
def analyzerOrder : List Analyzer :=
  [.it, .tcm97001, .revolt, .esa, .fs20, .em, .hms, .tx3, .ks300, .hoermann]

/-- The analyzers in order, the first OK ending the search; a disabled one is skipped "as if it had
returned failure" (R3, R210, R212). -/
def runAnalyzers (cfg : Config) (hightime : Half) (b : Bucket) :
    List Analyzer → Scratch → Except Fault Analysis
  | [], sc => .ok ⟨sc, none⟩
  | a :: rest, sc =>
    if a ∈ cfg.enabled then do
      let r ← analyze a cfg hightime b sc
      match r.verdict with
      | some _ => .ok r
      | none => runAnalyzers cfg hightime b rest r.scratch
    else runAnalyzers cfg hightime b rest sc

end Sys2Proof.Machine
end

