-- ==== Sys2Proof/Machine/Dedup.lean ====
section
/-! DEFINITION. The deduplicator and the emitter (46_dedup_emitter.md). -/

namespace Sys2Proof.Machine

/-- The item count `oby + nibble` of the output frame (R16, R260). -/
def itemCount (s : State) : Nat := s.oby.toNat + s.nibble.toNat

/-- The repeat comparison (R261): the same items as the filter's, fewer than REPTIME ticks after the
filter was last written, the difference mod 2^32 (R263). -/
def repeatOfFilter (s : State) : Except Fault Bool :=
  if reportFlag s.txReport REP_REPEATED then .ok false
  else if itemCount s = s.roby.toNat then do
    let items ← memSlice s.cfg s.obuf (itemCount s)
    let kept ← memSlice s.cfg s.robuf (itemCount s)
    .ok (decide (items = kept) && decide ((s.ticks - s.repTime).toNat < s.cfg.reptime.toNat))
  else .ok false

/-- The FHT synthetic repeats (R264): a control byte, or `(obuf[3] & 0x70) = 0x70`. In a frame too
short to hold them the two bytes are 0 (R213, R264), as every accepting analyzer leaves them
(`ZeroBeyondItems`, Laws/Analyzers.lean). -/
def fhtControlFrame (s : State) : Except Fault Bool := do
  let ctrl ← memRead s.cfg s.obuf s.cfg.fhtCtrlIndex
  let v ← memRead s.cfg s.obuf 3
  .ok (decide (ctrl ∈ s.cfg.fhtCtrl) || decide (v &&& 0x70 = 0x70))

/-- `isRep` after R261 and R264: the FHT test only sets it. -/
def repeatFlag (dt : Datatype) (s : State) : Except Fault Bool := do
  let rep ← repeatOfFilter s
  if dt = .fht ∧ reportFlag s.txReport REP_FHTPROTO = false then do
    let ctrl ← fhtControlFrame s
    .ok (rep || ctrl)
  else .ok rep

/-- The filter becomes the current frame, whatever happens to it (R262, R263). -/
def replaceFilter (s : State) : State :=
  { s with robuf := s.obuf, roby := BitVec.ofNat 8 (itemCount s), repTime := s.ticks }

/-- The datatypes of the two-of-two rule (R265). -/
def needsConfirmation (dt : Datatype) : Bool := decide (dt = .it) || decide (dt = .tcm97001)

/-- `isRep`, `isNotRep` and `packageOK` (R265, R266). -/
def decidePackage (dt : Datatype) (rep : Bool) (s : State) : State :=
  if needsConfirmation dt then
    if rep && !s.isNotRep then { s with isRep := rep, isNotRep := true, packageOK := true }
    else { s with isRep := rep, packageOK := false }
  else { s with isRep := rep, packageOK := !rep }

/-- A dropped frame is recorded (R267). -/
def noteDuplicate (dt : Datatype) (s : State) : State :=
  if s.packageOK then s else raise (.duplicate dt) s

/-- `Dedup()` (R260) for a frame of datatype `dt`. -/
def dedup (dt : Datatype) (s : State) : Except Fault State := do
  let rep ← repeatFlag dt s
  .ok (noteDuplicate dt (decidePackage dt rep (replaceFilter s)))

/-- `TYPECHAR[datatype]` (R271, R275). -/
def typeChar (c : TypeChars) : Datatype → Byte
  | .it => c.it
  | .tcm97001 => c.tcm97001
  | .revolt => c.revolt
  | .esa => c.esa
  | .fs20 => c.fs20
  | .fht => c.fht
  | .em => c.em
  | .hms => c.hms
  | .tx3 => c.tx3
  | .ks300 => c.ks300
  | .hoermann => c.hoermann

/-- The half byte's digit when `nibble` is set, the low four bits of `obuf[oby]` (R272). -/
def nibbleDigit (s : State) : Except Fault (List Byte) :=
  if s.nibble then do
    let v ← memRead s.cfg s.obuf s.oby.toNat
    .ok [hex1 (loNibble v)]
  else .ok []

/-- The RSSI pair when REP_RSSI is set (R273). -/
def rssiPair (s : State) : List Byte :=
  if reportFlag s.txReport REP_RSSI then hex2 s.rssi else []

/-- The frame line (R270 to R274): type character, byte pairs, nibble digit, RSSI pair, CR LF. -/
def frameLine (dt : Datatype) (s : State) : Except Fault (List Byte) := do
  let bytes ← memSlice s.cfg s.obuf s.oby.toNat
  let digit ← nibbleDigit s
  .ok ([typeChar s.cfg.typeChars dt] ++ bytes.flatMap hex2 ++ digit ++ rssiPair s ++ newline)

/-- `EmitFrame()` (R270). -/
def emitFrame (dt : Datatype) (s : State) : Except Fault State :=
  if s.packageOK && reportFlag s.txReport REP_KNOWN then do
    let line ← frameLine dt s
    .ok (emit line s)
  else .ok s

end Sys2Proof.Machine
end

