-- ==== Sys2Proof/Machine/Poll.lean ====
section
/-! DEFINITION. The event TASK_POLL (45_frame_analyzers.md rule R210). -/

namespace Sys2Proof.Machine

/-- The scratch registers of the state. -/
def scratchOf (s : State) : Scratch := ⟨s.obuf, s.oby, s.nibble⟩

/-- The scratch and the datatype after the analyzers (R211, R213). -/
def setScratch (r : Analysis) (s : State) : State :=
  { s with
    obuf := r.scratch.obuf, oby := r.scratch.oby, nibble := r.scratch.nibble
    datatype := r.verdict }

/-- The FHT collaborator call, before the deduplicator (R210, R268). -/
def callFhtHook (dt : Datatype) (s : State) : Except Fault State :=
  if dt = .fht then do
    let payload ← memSlice s.cfg s.obuf s.oby.toNat
    .ok (hook (.fhtHook payload) s)
  else .ok s

/-- A classified frame (R210): the FHT hook, the deduplicator, the emitter. -/
def deliver (dt : Datatype) (s : State) : Except Fault State := do
  let s ← callFhtHook dt s
  let s ← dedup dt s
  emitFrame dt s

/-- One invocation of the polled task (R210): it drains at most one bucket, and releases it whether
or not an analyzer succeeded. -/
def pollHandler (s : State) : Except Fault State :=
  if s.nrUsed = 0 then .ok s
  else do
    let b ← consumer s
    let r ← runAnalyzers s.cfg s.hightime b analyzerOrder (scratchOf s)
    let s := setScratch r s
    match r.verdict with
    | none => .ok (release (raise (.checkFail s.outIdx) s))
    | some dt => do
      let s ← deliver dt s
      .ok (release s)

/-- `TASK_POLL` (R210). -/
def execTaskPoll (s : State) : Host.Outcome State Fault Refusal := complete (pollHandler s)

end Sys2Proof.Machine
end

