-- ==== Sys2Proof/Machine/Dispatch.lean ====
section
/-! DEFINITION. The meaning of every event (30_encoding.md rule R91), one arm each. -/

namespace Sys2Proof.Machine

def exec (i : Instr) (s : State) : Host.Outcome State Fault Refusal :=
  match i with
  | .edgeFall => Sys2Proof.Machine.execEdgeFall s
  | .edgeRise => Sys2Proof.Machine.execEdgeRise s
  | .silenceTimeout => Sys2Proof.Machine.execSilenceTimeout s
  | .taskPoll => Sys2Proof.Machine.execTaskPoll s
  | .configure imm => Sys2Proof.Machine.execConfigure imm s
  | .rxReset => Sys2Proof.Machine.execRxReset s
  | .tickUs imm => Sys2Proof.Machine.execTickUs imm s
  | .ticksAdv imm => Sys2Proof.Machine.execTicksAdv imm s
  | .setRssi imm => Sys2Proof.Machine.execSetRssi imm s
  | .hwReset => Sys2Proof.Machine.execHwReset s

end Sys2Proof.Machine
end

