-- ==== Sys2Proof/Machine/Step.lean ====
section
/-! DEFINITION. One step: the next event of the stream runs its handler to completion
(10_state.md rule R31, 20_memory.md rule R77). -/

namespace Sys2Proof.Machine

/-- One step. A configuration outside the legal ranges is refused (R8, I-4). With no event waiting
the core "does nothing and loses nothing" (R327). A word that decodes runs its event; an illegal
word is refused in place (R96, R97). -/
def step (s : State) : Host.Outcome State Fault Refusal :=
  if legalConfig s.cfg then
    match nextEvent s with
    | none => .next s
    | some (w, s1) =>
      match decode w with
      | .ok i => exec i s1
      | .error _ => .next (refuseWord w s1)
  else .refused .illegalConfig

/-- The host's placement of an event word: at the head of the stream, so that the next step consumes
it (log entry 1). An event is one 32-bit word, so the bits above `nbits` are 0. -/
def State.withFetchWord (s : State) (nbits w : Nat) : State :=
  { s with inputs := BitVec.ofNat 32 (w % 2 ^ nbits) :: s.inputs }

end Sys2Proof.Machine
end

