-- ==== Sys2Proof/Safety.lean ====
section
/-! DEFINITION. What the claims mean by a sound state: the invariants the spec's rules state or imply
for every state the core reaches (41_bucket_ring.md rules R136 to R138 and the ranges of
10_state.md), and the terms the statements use. -/

namespace Sys2Proof.Machine

/-- The configuration is legal (R7, R8). -/
abbrev State.configured (s : State) : Prop := legalConfig s.cfg

/-- A bucket's fields are in their ranges (R41, R42), the bits at or past the cursor are 0 (R180 "the
byte is already 0 there"), a bucket in RESET holds the reset value (R138, R151), one in SYNC holds
no bit, and none is in INIT (R116). -/
structure BucketOk (cfg : Config) (b : Bucket) : Prop where
  cursor : b.byteIdx.toNat < cfg.maxmsg ∨ (b.byteIdx.toNat = cfg.maxmsg ∧ b.bitIdx = 7)
  dataWf : Memory.wf cfg.maxmsg b.data
  unwritten : ∀ k < 8 * cfg.maxmsg, b.bitCount ≤ k → bucketBit b k = false
  resetCleared : b.state = .reset → b = Bucket.cleared
  syncEmpty : b.state = .sync → b.bitCount = 0
  notInit : b.state ≠ .init

/-- What the silence handler commits (R137): a data state and at least 16 bits. -/
def committedOk (b : Bucket) : Prop :=
  BucketState.collect.code ≤ b.state.code ∧ 2 ≤ b.byteIdx.toNat

/-- The index `(out + k) mod N` of the ring (R136). -/
def ringIndex (s : State) (k : Nat) : Nat := (s.outIdx.toNat + k) % s.cfg.nBuckets

/-- The ring (R136 to R138): N buckets; `nrUsed ≤ N − 1`; `in = (out + nrUsed) mod N`; the committed
buckets are those of the silence handler; the free ones hold the reset value. -/
structure RingOk (s : State) : Prop where
  size : s.buckets.length = s.cfg.nBuckets
  outRange : s.outIdx.toNat < s.cfg.nBuckets
  usedRange : s.nrUsed.toNat + 1 ≤ s.cfg.nBuckets
  inFollows : s.inIdx.toNat = ringIndex s s.nrUsed.toNat
  bucketsOk : ∀ b ∈ s.buckets, BucketOk s.cfg b
  committed : ∀ k, k < s.nrUsed.toNat → ∃ b, s.buckets[ringIndex s k]? = some b ∧ committedOk b
  free : ∀ k, s.nrUsed.toNat < k → k < s.cfg.nBuckets →
    s.buckets[ringIndex s k]? = some Bucket.cleared

/-- The silence value of a bucket state (R323). -/
def silenceOf : BucketState → Half
  | .tcm97001 => SILENCE_TCM
  | .esa => SILENCE_ESA
  | _ => SILENCE

/-- The timer unit: the compare is enabled exactly while the producer bucket is out of RESET (R354:
"the compare is disabled" in RESET), with the compare value of the bucket's state (R323). -/
structure TimerOk (s : State) : Prop where
  armed : ∀ b, s.buckets[s.inIdx.toNat]? = some b → (s.ocie = true ↔ b.state ≠ .reset)
  interval : ∀ b, s.buckets[s.inIdx.toNat]? = some b → b.state ≠ .reset → s.ocr = silenceOf b.state

/-- The capture registers hold PULSE_W bits (R35, R36). -/
structure CaptureOk (s : State) : Prop where
  high : truncPulse s.cfg s.hightime = s.hightime
  low : truncPulse s.cfg s.lowtime = s.lowtime

/-- The consumer's arrays are in canonical form and its counts within them (R47, R49). -/
structure ScratchOk (s : State) : Prop where
  obufWf : Memory.wf s.cfg.maxmsg s.obuf
  robufWf : Memory.wf s.cfg.maxmsg s.robuf
  items : s.oby.toNat + s.nibble.toNat ≤ s.cfg.maxmsg
  filterItems : s.roby.toNat ≤ s.cfg.maxmsg

/-- The invariant of the core. -/
structure Inv (s : State) : Prop where
  legal : s.configured
  ring : RingOk s
  timer : TimerOk s
  capture : CaptureOk s
  scratch : ScratchOk s

/-- `b` is the producer bucket, `bucket[in]` (R44). -/
abbrev isProducer (s : State) (b : Bucket) : Prop := s.buckets[s.inIdx.toNat]? = some b

/-- `b` is the consumer bucket, `bucket[out]` (R45). -/
abbrev isConsumer (s : State) (b : Bucket) : Prop := s.buckets[s.outIdx.toNat]? = some b

/-- `S(b)`, the bits of a bucket in stream order (R214). -/
def streamOf (b : Bucket) : List Bool := (List.range b.bitCount).map (bucketBit b)

/-- The state after a rising edge's generic capture: `lowtime` written and `TCNT <- 0` (R113). -/
def captured (s : State) : State :=
  { s with lowtime := lowTimeOf s.cfg (scale s.cfg s.tcnt) s.hightime, tcnt := 0 }

/-- The wave a rising edge presents, `(hightime, lowtime)` after the capture, has the Revolt
preamble's shape (R158). -/
abbrev isRevoltWave (h l : Half) : Prop :=
  562 < h.toNat ∧ h.toNat < 750 ∧ 9 < l.toNat ∧ l.toNat < 33

/-- The producer's bucket reset in a state, with a notice (R130, R311). -/
def inputResetWith (n : List Notice) (s : State) : State :=
  { s with
    buckets := s.buckets.set s.inIdx.toNat Bucket.cleared
    ocie := false, isNotRep := false, notices := s.notices ++ n }

/-- An outcome appends a bit to the producer bucket `b` of `s` and then updates the bucket by `upd`;
where the bucket is full it is the overrun's reset (R180). -/
def AppendsBit (s : State) (b : Bucket) (bit : Bool) (upd : Bucket → Bucket)
    (o : Host.Outcome State Fault Refusal) : Prop :=
  (b.byteIdx.toNat < s.cfg.maxmsg → ∃ b', pushBit s.cfg b bit = .ok (some b') ∧
    o = .next { s with buckets := s.buckets.set s.inIdx.toNat (upd b') }) ∧
  (s.cfg.maxmsg ≤ b.byteIdx.toNat → o = .next (inputResetWith [.dataOverrun s.inIdx] s))

/-- The bits of a byte, MSB first (R73). -/
def msbBits (v : Byte) : List Bool :=
  [v.getLsbD 7, v.getLsbD 6, v.getLsbD 5, v.getLsbD 4, v.getLsbD 3, v.getLsbD 2, v.getLsbD 1,
    v.getLsbD 0]

/-- The bits of a nibble, LSB first (R224). -/
def nibbleLsbBits (v : BitVec 4) : List Bool :=
  [v.getLsbD 0, v.getLsbD 1, v.getLsbD 2, v.getLsbD 3]

/-- The bits of a byte, LSB first (R74). -/
def lsbBits (v : Byte) : List Bool :=
  [v.getLsbD 0, v.getLsbD 1, v.getLsbD 2, v.getLsbD 3, v.getLsbD 4, v.getLsbD 5, v.getLsbD 6,
    v.getLsbD 7]

/-- `popcount(v) mod 2` (R10, R225), counted on the byte's bits. -/
def oddOnes (v : Byte) : Bool := decide ((msbBits v).count true % 2 = 1)

/-- The XOR of a list of words. -/
def xorAll {w : Nat} (words : List (BitVec w)) : BitVec w := words.foldl (· ^^^ ·) 0

/-- The stream of FS20 groups: each byte MSB first, then its even parity (R223, R226). -/
def fs20Stream (bytes : List Byte) : List Bool := bytes.flatMap fun v => msbBits v ++ [oddOnes v]

/-- The stream of EM groups: each byte LSB first, then a stop bit 1 (R223, R228). -/
def emStream (bytes : List Byte) : List Bool := bytes.flatMap fun v => lsbBits v ++ [true]

/-- The stream of KS300 nibbles: each LSB first, then a separator 1 (R224). -/
def ks300Stream (q : List (BitVec 4)) : List Bool := q.flatMap fun v => nibbleLsbBits v ++ [true]

/-- The stream of HMS groups as received: each byte MSB first, the bit in the place of its parity and
the bit in the place of the literal 0 (R229). -/
def hmsStream (groups : List (Byte × Bool × Bool)) : List Bool :=
  groups.flatMap fun g => msbBits g.1 ++ [g.2.1, g.2.2]

/-- The ten analyzers in the order of R212, each with what it does to a scratch when it runs on the
bucket `b`; only the last two read `hightime` (R235). -/
def analyzerTable (cfg : Config) (hightime : Half) (b : Bucket) :
    List (Analyzer × (Scratch → Except Fault Analysis)) :=
  [(.it, analyzeIt cfg b), (.tcm97001, analyzeTcm cfg b), (.revolt, analyzeRevolt cfg b),
    (.esa, analyzeEsa cfg b), (.fs20, fun _ => analyzeFs20 cfg b), (.em, fun _ => analyzeEm cfg b),
    (.hms, analyzeHms cfg b), (.tx3, analyzeTx3 cfg b),
    (.ks300, fun _ => analyzeKs300 cfg hightime b),
    (.hoermann, analyzeHoermann cfg hightime b)]

/-- An analyzer returns OK with this datatype and this output frame, whatever scratch it finds. -/
def Accepts (run : Scratch → Except Fault Analysis) (dt : Datatype) (out : Scratch) : Prop :=
  ∀ sc, run sc = .ok ⟨out, some dt⟩

/-- An analyzer returns FAIL, whatever scratch it finds. -/
def Rejects (run : Scratch → Except Fault Analysis) : Prop := ∀ sc, ∃ out, run sc = .ok ⟨out, none⟩

/-- "no refusal recorded" (R97). -/
def noRefusal (s : State) : Prop := s.refused = false

end Sys2Proof.Machine
end

