-- ==== Sys2Proof/Certificates/Slice0/Obligations.lean ====
section
/-! DEFINITION. The statements about the core, for the provers. Each docstring names the rule it
formalises. -/

open Sys2Proof Sys2Proof.Machine

/-! ### Encoding -/

/-- R90 to R94: a word decodes to an event exactly when the event is well formed and the word is its
encoding. Rests on spec decisions D2 and D46. -/
def Obligations.DecodeAgreesWithEncode : Prop :=
  ∀ (w : Word) (i : Instr), decode w = .ok i ↔ i.wf = true ∧ w = encode i

/-- R94, the procedure in the numbers of its fields: which words are refused, for which reason, and
what every other word decodes to. Rests on spec decisions D2 and D46. -/
def Obligations.DecodeFollowsTheProcedure : Prop :=
  ∀ w : Word,
    let op := w.toNat / 2 ^ 24
    let rsv := w.toNat / 2 ^ 16 % 2 ^ 8
    let imm := w.toNat % 2 ^ 16
    (decode w = .error .unknownOpcode ↔ op ∉ [1, 2, 3, 4, 5, 6, 7, 8, 9, 10]) ∧
    (decode w = .error .reservedBits ↔ op ∈ [1, 2, 3, 4, 5, 6, 7, 8, 9, 10] ∧
      (rsv ≠ 0 ∨ (op ∈ [1, 2, 3, 4, 6, 10] ∧ imm ≠ 0) ∨ (op ∈ [5, 9] ∧ imm / 2 ^ 8 ≠ 0))) ∧
    ∀ i, decode w = .ok i → i.opcode.toByte.toNat = op ∧ i.imm.toNat = imm

/-- R98: one word of each line of the assembler's table. Rests on spec decision D2. -/
def Obligations.AssemblerWordsDecode : Prop :=
  decode 0x01000000 = .ok .edgeFall ∧ decode 0x02000000 = .ok .edgeRise ∧
  decode 0x03000000 = .ok .silenceTimeout ∧ decode 0x04000000 = .ok .taskPoll ∧
  decode 0x05000021 = .ok (.configure 0x21) ∧ decode 0x06000000 = .ok .rxReset ∧
  decode 0x07000190 = .ok (.tickUs 400) ∧ decode 0x08000028 = .ok (.ticksAdv 40) ∧
  decode 0x0900005A = .ok (.setRssi 0x5A) ∧ decode 0x0A000000 = .ok .hwReset

/-! ### The step -/

/-- R31, R77: a step consumes the next event word, advances the index, and is the event's meaning.
Rests on spec decision D48; the stream held in the state is log entry 1. -/
def Obligations.StepRunsTheDecodedEvent : Prop :=
  ∀ (s : State) (w : Word) (rest : List Word) (i : Instr),
    s.configured → s.inputs = w :: rest → decode w = .ok i →
    step s = exec i { s with inputs := rest, index := s.index + 1 }

/-- R96, R97: an illegal word changes no architectural state; it sets `refused` and appends the
notice REFUSED(word), and the stream goes on. Rests on spec decision D46. -/
def Obligations.IllegalWordIsRefusedInPlace : Prop :=
  ∀ (s : State) (w : Word) (rest : List Word) (e : DecodeError),
    s.configured → s.inputs = w :: rest → decode w = .error e →
    step s = .next { s with
      inputs := rest, index := s.index + 1
      refused := true, notices := s.notices ++ [.refused w] }

/-- R7, R8, I-4: a machine with a parameter outside its legal values is refused. The spec derives R8;
that the ESA bound holds with ESA disabled too is log entry 6, the model's reading. -/
def Obligations.IllegalConfigurationIsRefused : Prop :=
  ∀ s : State,
    s.cfg.nBuckets < 2 ∨ 255 < s.cfg.nBuckets ∨ s.cfg.maxmsg < 13 ∨ 255 < s.cfg.maxmsg ∨
      s.cfg.maxmsg < (match s.cfg.esaBitLen with | .b144 => 18 | .b160 => 20) ∨
      s.cfg.reptime = 0 ∨ s.cfg.maxmsg ≤ s.cfg.fhtCtrlIndex →
    step s = .refused .illegalConfig

/-- R327 (log entry 1, the model's choice of a step that idles): with no event waiting, nothing
changes. -/
def Obligations.NoEventChangesNothing : Prop :=
  ∀ s : State, s.configured → s.inputs = [] → step s = .next s

/-- R31: the index "advances by exactly one per event, whatever the event does" (at HW_RESET too,
log entry 2, the model's reading), and the event's word leaves the stream. Rests on spec decision
D48. -/
def Obligations.EventIndexAdvancesByOne : Prop :=
  ∀ (s t : State) (w : Word) (rest : List Word),
    s.inputs = w :: rest → step s = .next t → t.index = s.index + 1 ∧ t.inputs = rest

/-- The invariant of the core (R136 to R138, R323, the ranges of 10_state.md) is kept by every step
from every state that meets it. The spec derives these rules; spec decisions D6, D17, D20 and D43.
-/
def Obligations.StepKeepsTheInvariant : Prop :=
  ∀ s t : State, Inv s → step s = .next t → Inv t

/-- The invariant holds right after power-on, under every legal configuration, and so at reset.
Rests on spec decision D42. -/
def Obligations.PowerOnMeetsTheInvariant : Prop :=
  (∀ c : Config, legalConfig c → Inv (State.powerOn c)) ∧ Inv State.reset

/-- R71, R318: from a state that meets the invariant no index is out of range and every step
completes. The spec derives R71; spec decision D1. -/
def Obligations.SoundStateAlwaysSteps : Prop :=
  ∀ s : State, Inv s → ∃ t, step s = .next t

/-- R136, the ring's indices alone: they hold at reset, every event keeps them, and the producer
bucket is never one of the committed ones. The spec derives R136. -/
def Obligations.RingIndicesAreKept : Prop :=
  let ok (s : State) : Prop :=
    2 ≤ s.cfg.nBuckets ∧ s.cfg.nBuckets ≤ 255 ∧ s.outIdx.toNat < s.cfg.nBuckets ∧
      s.nrUsed.toNat ≤ s.cfg.nBuckets - 1 ∧ s.inIdx.toNat = ringIndex s s.nrUsed.toNat
  ok State.reset ∧
  (∀ (i : Instr) (s t : State), ok s → exec i s = .next t → ok t) ∧
  ∀ s : State, ok s → ∀ k < s.nrUsed.toNat, ringIndex s k ≠ s.inIdx.toNat

/-- R14, R54: the traces and the `refused` bit are never read by a handler, and the traces only
grow: with other traces the event does the same and appends the same records. Rests on spec decision
D50. -/
def Obligations.TracesAreAppendOnlyAndNeverRead : Prop :=
  ∀ (i : Instr) (s t : State), exec i s = .next t →
    ∃ (ds : List Byte) (dc : List Call) (dn : List Notice),
      ∀ (x : List Byte) (y : List Call) (z : List Notice) (r : Bool),
        exec i { s with sink := x, calls := y, notices := z, refused := r } =
          .next { t with
            sink := x ++ ds, calls := y ++ dc, notices := z ++ dn
            refused := if i = .hwReset then false else r }

/-- R311: "A single event appends at most one notice", a TICK_US event included, since at most one
silence handler runs in it (R110). Rests on spec decision D50. -/
def Obligations.EventAppendsAtMostOneNotice : Prop :=
  ∀ (i : Instr) (s t : State), exec i s = .next t →
    t.notices = s.notices ∨ ∃ n, t.notices = s.notices ++ [n]

/-- R340: the implementation parameters are fixed for a run and not changed by reset. Rests on spec
decision D42; the parameters held in the state are log entry 3. -/
def Obligations.ParametersNeverChange : Prop :=
  ∀ s t : State, step s = .next t → t.cfg = s.cfg

/-! ### The timer -/

/-- R110: TICK_US n is the rule's loop of n microseconds, from every state, its fault included.
Rests on spec decisions D5 and D44. -/
def Obligations.TickUsIsTheMicrosecondLoop : Prop :=
  ∀ (n : Half) (s : State), exec (.tickUs n) s = complete (tickLoop n.toNat s)

/-- R32, R110: while no compare match falls within the n microseconds (or the compare is disabled),
TICK_US n advances TCNT by n mod 2^16 and changes nothing else. Rests on spec decisions D5 and D44.
-/
def Obligations.TickUsWithoutMatchAdvancesTheTimer : Prop :=
  ∀ (n : Half) (s : State),
    (s.ocie = true → ∀ k : Nat, 1 ≤ k → k ≤ n.toNat → s.tcnt + BitVec.ofNat 16 k ≠ s.ocr) →
    exec (.tickUs n) s = .next { s with tcnt := s.tcnt + n }

/-- R110, R315: when TCNT reaches OCR within the n microseconds while OCIE is set, the handler of
SILENCE_TIMEOUT runs, once, and the timer advances by n all the same. Rests on spec decisions D5, D6
and D44. -/
def Obligations.TickUsTakesTheCompareInterrupt : Prop :=
  ∀ (n : Half) (s : State) (b : Bucket) (k : Nat),
    isProducer s b → s.ocie = true → 1 ≤ k → k ≤ n.toNat → s.tcnt + BitVec.ofNat 16 k = s.ocr →
    ∃ u, exec .silenceTimeout s = .next u ∧ exec (.tickUs n) s = .next { u with tcnt := s.tcnt + n }

/-- R111: `Scale(t) = (t >> 4) mod 2^PULSE_W`; R113: the low time of a rising edge is
`(c - hightime) mod 2^PULSE_W`, also where `hightime` is the greater. Rests on spec decision D4. -/
def Obligations.ScaledCountIsSixteenths : Prop :=
  ∀ c : Config,
    let modulus := 2 ^ (match c.pulseW with | .w8 => 8 | .w16 => 16)
    (∀ t : Half, (scale c t).toNat = t.toNat / 16 % modulus) ∧
    (∀ count hightime : Half, ((lowTimeOf c count hightime).toNat : Int) =
      ((count.toNat : Int) - (hightime.toNat : Int)) % (modulus : Nat))

/-! ### The silence timer -/

/-- R200, R201, R203: the four outcomes of SILENCE_TIMEOUT, each with all it changes. Rests on spec
decisions D6, D7 (when the ring is full), D9, D10, D20, D21, D36 and D50; bit 2 as REP_BITS is
general knowledge, log entry 7, PRESUMED. -/
def Obligations.SilenceTimeoutOutcomes : Prop :=
  ∀ (s : State) (b : Bucket), isProducer s b →
    exec .silenceTimeout s = .next (
      if s.ocie = false then s
      else if b.state ∈ [.reset, .init, .sync] ∨ b.byteIdx.toNat < 2 then
        inputResetWith [.frameTooShort s.inIdx] s
      else if s.nrUsed.toNat + 1 = s.cfg.nBuckets then
        { inputResetWith [.ringOverflow s.inIdx] s with
          sink := s.sink ++
            if s.txReport.getLsbD 2 then [0x42, 0x4F, 0x56, 0x46, 0x0D, 0x0A] else [] }
      else
        { s with
          ocie := false
          inIdx := BitVec.ofNat 8 ((s.inIdx.toNat + 1) % s.cfg.nBuckets)
          nrUsed := s.nrUsed + 1 })

/-! ### Edges -/

/-- R112: outside HMS and ESA a falling edge stores the scaled count in `hightime`, does not reset
the timer, and changes nothing else. Rests on spec decision D40. -/
def Obligations.FallingEdgeStoresTheCount : Prop :=
  ∀ (s : State) (b : Bucket), isProducer s b → b.state ≠ .hms → b.state ≠ .esa →
    exec .edgeFall s = .next { s with hightime := scale s.cfg s.tcnt }

/-- R190 on a falling edge: too short changes nothing; within the window the bit 1 is appended and
the timer reset; too long resets the bucket and the edge is captured as any falling edge. Rests on
spec decision D16. -/
def Obligations.ManchesterFallingEdge : Prop :=
  ∀ (s : State) (b : Bucket) (lo hi : Nat), isProducer s b →
    (b.state = .hms ∧ lo = 46 ∧ hi = 78) ∨ (b.state = .esa ∧ lo = 23 ∧ hi = 39) →
    let c := (scale s.cfg s.tcnt).toNat
    (c < lo → exec .edgeFall s = .next s) ∧
    (lo ≤ c → c ≤ hi → AppendsBit { s with tcnt := 0 } b true id (exec .edgeFall s)) ∧
    (hi < c → exec .edgeFall s =
      .next { inputResetWith [.pulseTooLong s.inIdx] s with hightime := scale s.cfg s.tcnt })

/-- R190 on a rising edge: as on a falling edge, with the bit 0; a too long edge resets the bucket
and then goes the way of a rising edge in the reset state. Rests on spec decision D16. -/
def Obligations.ManchesterRisingEdge : Prop :=
  ∀ (s : State) (b : Bucket) (lo hi : Nat), isProducer s b →
    (b.state = .hms ∧ lo = 46 ∧ hi = 78) ∨ (b.state = .esa ∧ lo = 23 ∧ hi = 39) →
    let c := (scale s.cfg s.tcnt).toNat
    (c < lo → exec .edgeRise s = .next s) ∧
    (lo ≤ c → c ≤ hi → AppendsBit { s with tcnt := 0 } b false id (exec .edgeRise s)) ∧
    (hi < c → exec .edgeRise s = exec .edgeRise (inputResetWith [.pulseTooLong s.inIdx] s))

/-- R79, R321: the producer's events leave the consumer's side alone: `out`, every bucket but the
producer's, the scratch, the filter, the host's registers; `nrUsed` only grows by one (with `in`
moved on), `isNotRep` is at most cleared, and only the silence handler emits. Rests on spec
decisions D37 and D38. -/
def Obligations.ProducerEventsLeaveTheConsumerAlone : Prop :=
  ∀ (i : Instr) (s t : State),
    (i = .edgeFall ∨ i = .edgeRise ∨ i = .silenceTimeout ∨ ∃ n, i = .tickUs n) →
    exec i s = .next t →
    t.outIdx = s.outIdx ∧ t.buckets.length = s.buckets.length ∧
    (∀ k, k ≠ s.inIdx.toNat → t.buckets[k]? = s.buckets[k]?) ∧
    t.obuf = s.obuf ∧ t.oby = s.oby ∧ t.nibble = s.nibble ∧ t.datatype = s.datatype ∧
    t.robuf = s.robuf ∧ t.roby = s.roby ∧ t.repTime = s.repTime ∧
    t.isRep = s.isRep ∧ t.packageOK = s.packageOK ∧ (t.isNotRep = s.isNotRep ∨ t.isNotRep = false) ∧
    t.txReport = s.txReport ∧ t.ticks = s.ticks ∧ t.rssi = s.rssi ∧ t.refused = s.refused ∧
    ((t.nrUsed = s.nrUsed ∧ t.inIdx = s.inIdx) ∨
      (t.nrUsed = s.nrUsed + 1 ∧ t.inIdx = ringSucc s.cfg s.inIdx ∧ t.buckets = s.buckets)) ∧
    (i = .edgeFall ∨ i = .edgeRise → t.sink = s.sink ∧ t.nrUsed = s.nrUsed ∧ t.inIdx = s.inIdx)

/-- R150: the decision table of a silent line, in order, with all each row changes. Rests on spec
decisions D3 and D6. -/
def Obligations.SyncDetectTable : Prop :=
  ∀ (s : State) (b : Bucket), isProducer s b → b.state = .reset → 0 < s.cfg.maxmsg →
    let t := captured s
    let h := t.hightime
    let l := t.lowtime
    let started (st : BucketState) : Bucket :=
      { b with state := st, byteIdx := 0, bitIdx := 7, data := Memory.write b.data 0 0 }
    ¬ isRevoltWave h l →
    exec .edgeRise s = .next (
      if 26 ≤ h.toNat ∧ h.toNat ≤ 33 ∧ 531 ≤ l.toNat ∧ l.toNat ≤ 562 then
        { t with
          buckets := s.buckets.set s.inIdx.toNat (started .tcm97001), ocr := 4600, ocie := true }
      else if 8 ≤ h.toNat ∧ h.toNat ≤ 37 ∧ 156 ≤ l.toNat ∧ l.toNat ≤ 1062 then
        { t with buckets := s.buckets.set s.inIdx.toNat (started .it), ocr := 4000, ocie := true }
      else if 100 < h.toNat ∨ 100 < l.toNat then t
      else
        { t with
          buckets := s.buckets.set s.inIdx.toNat
            { b with zero := ⟨h, l⟩, sync := 1, state := .sync }
          ocr := 4000, ocie := true })

/-- R153, R155: a wave like `zero` refines it and is counted; after fewer than 4 sync pulses another
wave resets the input and is handled as in the reset state. Rests on spec decisions D10, D11 and
D18. -/
def Obligations.SyncTrainStep : Prop :=
  ∀ (s : State) (b : Bucket), isProducer s b → b.state = .sync →
    let t := captured s
    ¬ isRevoltWave t.hightime t.lowtime →
    (waveEquals b.zero t.hightime t.lowtime .sync = true → exec .edgeRise s = .next { t with
      buckets := s.buckets.set s.inIdx.toNat
        { b with zero := makeAvg b.zero t.hightime t.lowtime, sync := b.sync + 1 } }) ∧
    (waveEquals b.zero t.hightime t.lowtime .sync = false → b.sync.toNat < 4 →
      exec .edgeRise s = exec .edgeRise (inputResetWith [] s))

/-- R154, R156: the preamble table, in order, with all each row changes. The router row is the
parameter ROUTER_SYNC, log entry 5. Rests on spec decisions D11 and D12. -/
def Obligations.PreambleTable : Prop :=
  ∀ (s : State) (b : Bucket), isProducer s b → b.state = .sync → 0 < s.cfg.maxmsg →
    let t := captured s
    let h := t.hightime
    let l := t.lowtime
    let sum := b.zero.high.toNat + b.zero.low.toNat
    let lockedOn (st : BucketState) : List Bucket := s.buckets.set s.inIdx.toNat
      { b with
        state := st, one := ⟨h, l⟩, byteIdx := 0, bitIdx := 7, data := Memory.write b.data 0 0 }
    ¬ isRevoltWave h l → waveEquals b.zero h l .sync = false → 4 ≤ b.sync.toNat →
    exec .edgeRise s = .next (
      if 12 ≤ b.sync.toNat ∧ 100 < sum then
        { t with buckets := lockedOn .hms, ocr := 4000, ocie := true }
      else if 10 ≤ b.sync.toNat ∧ sum < 37 then
        { t with buckets := lockedOn .esa, ocr := 1000, ocie := true }
      else if routerSyncHolds s.cfg b h l then
        { inputResetWith [] t with calls := s.calls ++ [.rfRouterAccept b] }
      else { t with buckets := lockedOn .collect, ocr := 4000, ocie := true })

/-- R158, R159: a wave of the Revolt preamble's shape, in any state the generic path reaches,
discards the bucket and enters REVOLT; `isNotRep` is not cleared. Rests on spec decision D13. -/
def Obligations.RevoltPreambleEntersRevolt : Prop :=
  ∀ (s : State) (b : Bucket), isProducer s b → b.state ≠ .hms → b.state ≠ .esa →
    isRevoltWave (captured s).hightime (captured s).lowtime →
    exec .edgeRise s = .next { captured s with
      buckets := s.buckets.set s.inIdx.toNat
        { Bucket.cleared with
          state := .revolt, zero := s.cfg.revoltZero, one := s.cfg.revoltOne, sync := 1 }
      ocr := 4000, ocie := true }

/-- R182: in COLLECT a wave like `one` is a 1, else one like `zero` is a 0, each refining its
reference; any other resets the input. Rests on spec decision D17. -/
def Obligations.CollectStepOutcomes : Prop :=
  ∀ (s : State) (b : Bucket), isProducer s b → b.state = .collect →
    let t := captured s
    let h := t.hightime
    let l := t.lowtime
    ¬ isRevoltWave h l →
    if waveEquals b.one h l .collect then
      AppendsBit t b true (fun b => { b with one := makeAvg b.one h l }) (exec .edgeRise s)
    else if waveEquals b.zero h l .collect then
      AppendsBit t b false (fun b => { b with zero := makeAvg b.zero h l }) (exec .edgeRise s)
    else exec .edgeRise s = .next (inputResetWith [.demodMismatch s.inIdx] t)

/-- R184 while the bucket holds a bit: as in COLLECT with the wider tolerance, but a wave like
neither reference is ignored. Rests on spec decisions D15 and D17. -/
def Obligations.IntertechnoStepOutcomes : Prop :=
  ∀ (s : State) (b : Bucket), isProducer s b → b.state = .it → ¬ (b.byteIdx = 0 ∧ b.bitIdx = 7) →
    let t := captured s
    let h := t.hightime
    let l := t.lowtime
    ¬ isRevoltWave h l →
    if waveEquals b.one h l .it then
      AppendsBit t b true (fun b => { b with one := makeAvg b.one h l }) (exec .edgeRise s)
    else if waveEquals b.zero h l .it then
      AppendsBit t b false (fun b => { b with zero := makeAvg b.zero h l }) (exec .edgeRise s)
    else exec .edgeRise s = .next t

/-- R184 to R186 on the first wave of a bucket in IT or ITV3: a start marker enters ITV3 with no
bit; otherwise the references are set from the wave and it becomes the first bit. In IT it is a 0
only when the low time is longer by TDIFFIT or more: below that it is like the `one` just set too,
which is tested first. In ITV3 the bit is `l − 12 > h`. Rests on spec decisions D14 and D17. -/
def Obligations.InitialEdgeOutcomes : Prop :=
  ∀ (s : State) (b : Bucket), isProducer s b → b.byteIdx = 0 → b.bitIdx = 7 → 0 < s.cfg.maxmsg →
    let t := captured s
    let h := t.hightime
    let l := t.lowtime
    ¬ isRevoltWave h l →
    (150 < l.toNat → b.state = .it ∨ b.state = .itv3 → exec .edgeRise s = .next { t with
      buckets := s.buckets.set s.inIdx.toNat
        { b with state := .itv3, byteIdx := 0, bitIdx := 7, data := Memory.write b.data 0 0 }
      ocr := 4000, ocie := true }) ∧
    (l.toNat ≤ 150 → b.state = .it → h.toNat + 21 ≤ l.toNat →
      AppendsBit t { b with zero := ⟨h, l⟩, one := ⟨l, h⟩ } false
        (fun b => { b with zero := makeAvg b.zero h l }) (exec .edgeRise s)) ∧
    (l.toNat ≤ 150 → b.state = .it → h.toNat + 1 < l.toNat → l.toNat < h.toNat + 21 →
      AppendsBit t { b with zero := ⟨h, l⟩, one := ⟨l, h⟩ } true
        (fun b => { b with one := makeAvg b.one h l }) (exec .edgeRise s)) ∧
    (l.toNat ≤ 150 → b.state = .it → l.toNat ≤ h.toNat + 1 →
      AppendsBit t { b with one := ⟨h, l⟩, zero := ⟨l, h⟩ } true
        (fun b => { b with one := makeAvg b.one h l }) (exec .edgeRise s)) ∧
    (l.toNat ≤ 150 → b.state = .itv3 → h.toNat + 1 < l.toNat →
      AppendsBit t { b with one := ⟨h, l⟩, zero := ⟨h, h⟩ } (decide (h.toNat + 12 < l.toNat)) id
        (exec .edgeRise s)) ∧
    (l.toNat ≤ 150 → b.state = .itv3 → l.toNat ≤ h.toNat + 1 →
      AppendsBit t { b with zero := ⟨h, BitVec.ofNat 16 (5 * h.toNat)⟩, one := ⟨h, l⟩ } false id
        (exec .edgeRise s))

/-- R116, R186, R188, R189: the bit of a wave in ITV3 (once a bit is held), TCM97001 and REVOLT;
outside its windows TCM97001 ignores the wave, and INIT ignores every wave. Rests on spec decisions
D17, D43 and D51. -/
def Obligations.FixedThresholdSteps : Prop :=
  ∀ (s : State) (b : Bucket), isProducer s b →
    let t := captured s
    let h := t.hightime
    let l := t.lowtime
    ¬ isRevoltWave h l →
    (b.state = .itv3 → ¬ (b.byteIdx = 0 ∧ b.bitIdx = 7) →
      AppendsBit t b (decide (h.toNat + 12 < l.toNat)) id (exec .edgeRise s)) ∧
    (b.state = .tcm97001 → 110 < l.toNat ∧ l.toNat < 140 →
      AppendsBit t b false id (exec .edgeRise s)) ∧
    (b.state = .tcm97001 → 230 < l.toNat ∧ l.toNat < 270 →
      AppendsBit t b true id (exec .edgeRise s)) ∧
    (b.state = .tcm97001 → ¬ (110 < l.toNat ∧ l.toNat < 140) → ¬ (230 < l.toNat ∧ l.toNat < 270) →
      exec .edgeRise s = .next t) ∧
    (b.state = .revolt → h.toNat < 11 →
      AppendsBit t b false (fun b => { b with zero := makeAvg b.zero h l }) (exec .edgeRise s)) ∧
    (b.state = .revolt → 11 ≤ h.toNat →
      AppendsBit t b true (fun b => { b with one := makeAvg b.one h l }) (exec .edgeRise s)) ∧
    (b.state = .init → exec .edgeRise s = .next t)

/-- R73: "bits are stored "MSB first": the first bit received goes to bit 7 of `data[0]`, the eighth to
bit 0, the ninth to bit 7 of `data[1]`": bit number k goes to bit `7 - k mod 8` of `data[k div 8]`, the
bits before it stay, no other byte changes, and the sequence the analyzers read grows by that bit. -/
def Obligations.ReceivedBitsAreStoredMsbFirst : Prop :=
  ∀ (cfg : Config) (b : Bucket) (bit : Bool),
    legalConfig cfg → BucketOk cfg b → b.byteIdx.toNat < cfg.maxmsg →
    let k := b.bitCount
    ∃ b', pushBit cfg b bit = .ok (some b') ∧ b'.bitCount = k + 1 ∧
      (Memory.read b'.data (k / 8)).getLsbD (7 - k % 8) = bit ∧
      streamOf b' = streamOf b ++ [bit] ∧
      (∀ j, j ≠ k / 8 → Memory.read b'.data j = Memory.read b.data j) ∧
      Memory.wf cfg.maxmsg b'.data ∧
      b' = { b with byteIdx := b'.byteIdx, bitIdx := b'.bitIdx, data := b'.data }

/-- R171: the comparator is the three strict tests in exact integers. Rests on spec decision D19. -/
def Obligations.WaveEqualsIsThreeStrictTests : Prop :=
  ∀ (ref : Wave) (h l : Half) (st : BucketState),
    let t : Int := if st = .it then 21 else 12
    let rh : Int := ref.high.toNat
    let rl : Int := ref.low.toNat
    waveEquals ref h l st = true ↔
      |rl - l.toNat| < t ∧ |rh - h.toNat| < t ∧ |(rl + rh) - (l.toNat + h.toNat)| < t

/-- R172: the running average is `(3·ref + x) div 4`, of the high time with `h` and of the low time with
`l`; for a constant input it reaches it exactly from above, and from below stops within three units of
it. Rests on spec decision D18. -/
def Obligations.AverageConvergesToItsInput : Prop :=
  (∀ (ref : Wave) (h l : Half),
    (makeAvg ref h l).high.toNat = (3 * ref.high.toNat + h.toNat) / 4 % 2 ^ 16 ∧
    (makeAvg ref h l).low.toNat = (3 * ref.low.toNat + l.toNat) / 4 % 2 ^ 16) ∧
  ∀ r x : Half,
    (avg31 r x).toNat = (3 * r.toNat + x.toNat) / 4 ∧
    (x.toNat ≤ r.toNat → ∃ n : Nat, ∀ m ≥ n, (fun a => avg31 a x)^[m] r = x) ∧
    (r.toNat ≤ x.toNat → ∃ (n : Nat) (a : Half), a.toNat ≤ x.toNat ∧ x.toNat ≤ a.toNat + 3 ∧
      ∀ m ≥ n, (fun a => avg31 a x)^[m] r = a)

/-! ### The poll and the analyzers -/

/-- R139: "The consumer reads nrUsed to know whether data is available", and "The consumer returns
immediately when nrUsed==0": with `nrUsed = 0` a poll changes nothing; with any other value, and
whatever else the state holds, a poll that completes has taken one bucket. -/
def Obligations.PollTakesABucketExactlyWhenOneIsCommitted : Prop :=
  ∀ s : State,
    (s.nrUsed = 0 → exec .taskPoll s = .next s) ∧
    (s.nrUsed ≠ 0 → ∀ t, exec .taskPoll s = .next t → t.nrUsed.toNat + 1 = s.nrUsed.toNat)

/-- R134, R210, R212, R3, R79: a poll with a committed bucket completes. Its datatype and output frame
are those of the first analyzer of R212's order that is enabled and accepts `bucket[out]`, a disabled
one being skipped; it is NONE exactly when every enabled one fails. A classified frame's `obuf` is 0
beyond its item count (R213, R260, R264); for the bits of an incomplete last group that is log entry 16,
DEDUCED. Whatever the analyzers say, that one bucket is cleared and released, and the producer's side
and the host's registers are left alone. Rests on spec decisions D8, D9, D22, D23, D38 and D52. -/
def Obligations.PollReleasesOneBucket : Prop :=
  ∀ s : State, Inv s → s.nrUsed ≠ 0 → ∃ b t, isConsumer s b ∧ exec .taskPoll s = .next t ∧
    ((t.datatype = none ∧
        ∀ e ∈ analyzerTable s.cfg s.hightime b, e.1 ∈ s.cfg.enabled → Rejects e.2) ∨
      ∃ before e after dt out, analyzerTable s.cfg s.hightime b = before ++ e :: after ∧
        (∀ f ∈ before, f.1 ∈ s.cfg.enabled → Rejects f.2) ∧
        e.1 ∈ s.cfg.enabled ∧ Accepts e.2 dt out ∧
        t.datatype = some dt ∧ t.obuf = out.obuf ∧ t.oby = out.oby ∧ t.nibble = out.nibble ∧
        ∀ j, t.oby.toNat + t.nibble.toNat ≤ j → Memory.read t.obuf j = 0) ∧
    t.buckets = s.buckets.set s.outIdx.toNat Bucket.cleared ∧
    t.outIdx.toNat = (s.outIdx.toNat + 1) % s.cfg.nBuckets ∧
    t.nrUsed.toNat + 1 = s.nrUsed.toNat ∧
    t.cfg = s.cfg ∧ t.inputs = s.inputs ∧ t.index = s.index ∧ t.tcnt = s.tcnt ∧ t.ocr = s.ocr ∧
    t.ocie = s.ocie ∧ t.hightime = s.hightime ∧ t.lowtime = s.lowtime ∧ t.inIdx = s.inIdx ∧
    t.txReport = s.txReport ∧ t.ticks = s.ticks ∧ t.rssi = s.rssi ∧ t.refused = s.refused

/-- R210: a poll whose analyzers all fail reports CHECK_FAIL(out) and touches neither the filter nor
the outputs. Rests on spec decisions D50 and D52. -/
def Obligations.UnclassifiedFrameIsDropped : Prop :=
  ∀ s t : State, s.nrUsed ≠ 0 → exec .taskPoll s = .next t → t.datatype = none →
    t.notices = s.notices ++ [.checkFail s.outIdx] ∧ t.sink = s.sink ∧ t.calls = s.calls ∧
    t.robuf = s.robuf ∧ t.roby = s.roby ∧ t.repTime = s.repTime ∧
    t.isRep = s.isRep ∧ t.isNotRep = s.isNotRep ∧ t.packageOK = s.packageOK

/-- R235: with equal parameters, bucket and `hightime`, two polls give the same datatype, and the
same output frame when they classify. The spec derives R235. -/
def Obligations.ClassifierIsDeterminedByBucketAndHightime : Prop :=
  ∀ (s₁ s₂ t₁ t₂ : State) (b : Bucket),
    s₁.cfg = s₂.cfg → s₁.hightime = s₂.hightime → isConsumer s₁ b → isConsumer s₂ b →
    s₁.nrUsed ≠ 0 → s₂.nrUsed ≠ 0 →
    exec .taskPoll s₁ = .next t₁ → exec .taskPoll s₂ = .next t₂ →
    t₁.datatype = t₂.datatype ∧
    (t₁.datatype ≠ none → t₁.obuf = t₂.obuf ∧ t₁.oby = t₂.oby ∧ t₁.nibble = t₂.nibble)

/-- R218: a TCM97001 bucket of exactly 24 bits is accepted and its three bytes copied; any other bucket
fails. -/
def Obligations.TcmFrameIsCopiedVerbatim : Prop :=
  ∀ (cfg : Config) (b : Bucket) (sc : Scratch), legalConfig cfg →
    if b.state = .tcm97001 ∧ b.byteIdx = 3 ∧ b.bitIdx = 7 then
      ∃ out, analyzeTcm cfg b sc = .ok ⟨out, some .tcm97001⟩ ∧ out.oby = 3 ∧ out.nibble = false ∧
        ∀ j < 3, Memory.read out.obuf j = Memory.read b.data j
    else ∃ out, analyzeTcm cfg b sc = .ok ⟨out, none⟩

/-- R217, R219, R212: an IT or ITV3 bucket of 24 or 64 bits is accepted by its length alone; a REVOLT
bucket of 103 bits is accepted when its twelfth byte is the sum of the first eleven mod 256; their
bytes are copied. Any other bucket of those states fails with the scratch cleared (R213); that the
length of an IT bucket is no gate is log entry 14, the model's reading. A bucket in another state, and
for TCM97001 too, fails its gate and leaves the scratch unwritten. Rests on spec decisions D31, D32 and
D52. -/
def Obligations.ItAndRevoltFramesAreCopiedVerbatim : Prop :=
  ∀ (cfg : Config) (b : Bucket) (sc : Scratch), legalConfig cfg →
    (b.state = .it ∨ b.state = .itv3 →
      if (b.byteIdx = 3 ∨ b.byteIdx = 8) ∧ b.bitIdx = 7 then
        ∃ out, analyzeIt cfg b sc = .ok ⟨out, some .it⟩ ∧ out.oby = b.byteIdx ∧ out.nibble = false ∧
          ∀ j, Memory.read out.obuf j = if j < b.byteIdx.toNat then Memory.read b.data j else 0
      else analyzeIt cfg b sc = .ok ⟨clearedScratch, none⟩) ∧
    (b.state ≠ .it → b.state ≠ .itv3 → analyzeIt cfg b sc = .ok ⟨sc, none⟩) ∧
    (b.state ≠ .tcm97001 → analyzeTcm cfg b sc = .ok ⟨sc, none⟩) ∧
    (b.state = .revolt →
      if b.byteIdx = 12 ∧ b.bitIdx = 0 ∧
          ((List.range 11).map fun i => (Memory.read b.data i).toNat).sum % 256 =
            (Memory.read b.data 11).toNat then
        ∃ out, analyzeRevolt cfg b sc = .ok ⟨out, some .revolt⟩ ∧ out.oby = 12 ∧
          out.nibble = false ∧
          ∀ j, Memory.read out.obuf j = if j < 12 then Memory.read b.data j else 0
      else analyzeRevolt cfg b sc = .ok ⟨clearedScratch, none⟩) ∧
    (b.state ≠ .revolt → analyzeRevolt cfg b sc = .ok ⟨sc, none⟩)

/-- R220 to R222, R212: an ESA bucket of ESA_BITLEN bits is deciphered with the rolling salt, and
accepted exactly when ESA_CRC plus the sum of the raw bytes is the trailer mod 2^16; a bucket in another
state or of another length fails and leaves the scratch unwritten. Rests on spec decision D26; ESA_CRC
is open, log entry 4. -/
def Obligations.EsaFrameIsDecipheredAndChecked : Prop :=
  ∀ (cfg : Config) (b : Bucket) (sc : Scratch), legalConfig cfg →
    let dataBytes := match cfg.esaBitLen with | .b144 => 15 | .b160 => 17
    (∀ (raw : List Byte) (last hi lo : Byte), b.state = .esa → raw.length = dataBytes →
      streamOf b = (raw ++ [last, hi, lo]).flatMap msbBits →
      ∃ out, analyzeEsa cfg b sc = .ok ⟨out,
          if (cfg.esaCrc.toNat + (raw.map BitVec.toNat).sum + last.toNat) % 2 ^ 16 =
            256 * hi.toNat + lo.toNat then some .esa else none⟩ ∧
        out.oby.toNat = raw.length + 1 ∧ out.nibble = false ∧
        (∀ i < raw.length, Memory.read out.obuf i =
          raw.getD i 0 ^^^ if i = 0 then 0x89 else raw.getD (i - 1) 0 + 0x24) ∧
        Memory.read out.obuf raw.length = last ^^^ (raw.getD (raw.length - 1) 0 + 0x24) ^^^ 0xFF) ∧
    (b.state ≠ .esa ∨ b.bitCount ≠ 8 * dataBytes + 24 → analyzeEsa cfg b sc = .ok ⟨sc, none⟩)

/-- R223, R226, R227: a bucket that holds FS20 groups (and at most 8 further bits) is read back byte
by byte, and its trailer decides: `c6` and the repeater's `c6 + 1` (rewritten) are FS20, `c12` is
FHT, any other fails. Rests on spec decisions D23 and D24. -/
def Obligations.Fs20TrailerDecidesTheFrame : Prop :=
  ∀ (cfg : Config) (b : Bucket) (payload : List Byte) (trailer : Byte) (extra : List Bool),
    legalConfig cfg → b.bitCount ≤ 8 * cfg.maxmsg → extra.length ≤ 8 →
    streamOf b = fs20Stream (payload ++ [trailer]) ++ extra →
    let c6 : Byte := BitVec.ofNat 8 (6 + (payload.map BitVec.toNat).sum)
    let c12 : Byte := BitVec.ofNat 8 (12 + (payload.map BitVec.toNat).sum)
    ∃ sc, sc.oby.toNat = payload.length + 1 ∧ sc.nibble = false ∧
      (List.range (payload.length + 1)).map (Memory.read sc.obuf) =
        payload ++ [if trailer = c6 + 1 then c6 else trailer] ∧
      analyzeFs20 cfg b = .ok ⟨sc,
        if trailer = c6 ∨ trailer = c6 + 1 then some .fs20
        else if trailer = c12 then some .fht else none⟩

/-- R223, R226: an FS20 group whose parity bit is wrong makes the analyzer fail, and so does a bucket
without a whole group. Rests on spec decision D23. -/
def Obligations.Fs20WrongParityFails : Prop :=
  ∀ (cfg : Config) (b : Bucket), legalConfig cfg → b.bitCount ≤ 8 * cfg.maxmsg →
    (∀ (good : List Byte) (v : Byte) (rest : List Bool),
      streamOf b = fs20Stream good ++ msbBits v ++ [!oddOnes v] ++ rest →
      ∃ sc, analyzeFs20 cfg b = .ok ⟨sc, none⟩) ∧
    (b.bitCount ≤ 8 → ∃ sc, analyzeFs20 cfg b = .ok ⟨sc, none⟩)

/-- R223, R228: a bucket that holds EM groups and at most 8 further bits is read back byte by byte, a
last byte of 8 bits without its stop bit counting as one, and is accepted exactly when there are ten
bytes and the tenth is the XOR of the nine; a stop bit 0 makes the analyzer fail. Rests on spec
decisions D23 and D25; that the last stop bit may be missing is general knowledge (G-7), log entry 7,
PRESUMED. -/
def Obligations.EmFrameIsReadBack : Prop :=
  ∀ (cfg : Config) (b : Bucket), legalConfig cfg → b.bitCount ≤ 8 * cfg.maxmsg →
    (∀ (groups last : List Byte) (extra : List Bool),
      (last = [] ∧ extra.length < 8) ∨ (∃ v, last = [v] ∧ extra = lsbBits v) →
      streamOf b = emStream groups ++ extra →
      let bytes := groups ++ last
      ∃ sc, sc.oby.toNat = bytes.length ∧ sc.nibble = false ∧
        (List.range bytes.length).map (Memory.read sc.obuf) = bytes ∧
        analyzeEm cfg b = .ok ⟨sc,
          if bytes.length = 10 ∧ bytes.getD 9 0 = xorAll (bytes.take 9) then some .em
          else none⟩) ∧
    (∀ (good : List Byte) (v : Byte) (rest : List Bool),
      streamOf b = emStream good ++ lsbBits v ++ [false] ++ rest →
      ∃ sc, analyzeEm cfg b = .ok ⟨sc, none⟩)

/-- R229, R212: a bucket of at least 69 bits is six groups of a byte, a parity bit and a literal bit,
then a CRC byte and its parity bit, and bits that are ignored; it is accepted exactly when every parity
is even, every literal bit is 0 and the CRC is the XOR of the six bytes, which are then the output. A
shorter bucket fails and leaves the scratch unwritten. Rests on spec decisions D27 and D52. -/
def Obligations.HmsFrameIsReadBack : Prop :=
  ∀ (cfg : Config) (b : Bucket) (sc : Scratch), legalConfig cfg → b.bitCount ≤ 8 * cfg.maxmsg →
    (∀ (groups : List (Byte × Bool × Bool)) (crc : Byte) (crcParity : Bool) (extra : List Bool),
      groups.length = 6 →
      streamOf b = hmsStream groups ++ msbBits crc ++ [crcParity] ++ extra →
      let bytes := groups.map fun g => g.1
      if (∀ g ∈ groups, g.2 = (oddOnes g.1, false)) ∧ crcParity = oddOnes crc ∧
          crc = xorAll bytes then
        ∃ out, analyzeHms cfg b sc = .ok ⟨out, some .hms⟩ ∧ out.oby = 6 ∧ out.nibble = false ∧
          (List.range 6).map (Memory.read out.obuf) = bytes
      else ∃ out, analyzeHms cfg b sc = .ok ⟨out, none⟩) ∧
    (b.bitCount < 69 → analyzeHms cfg b sc = .ok ⟨sc, none⟩)

/-- R230, R231, R212: a 38-bit bucket is the low seven bits of the first byte, three bytes and the high
seven bits of the fifth; it is accepted exactly when the first nibble is 0xA and the nibbles sum up. A
bucket of another length fails and leaves the scratch unwritten. Rests on spec decisions D28 and D52. -/
def Obligations.Tx3FrameIsReadBack : Prop :=
  ∀ (cfg : Config) (b : Bucket) (sc : Scratch), legalConfig cfg →
    (∀ v0 v1 v2 v3 v4 : Byte, v0.getLsbD 7 = true → v4.getLsbD 0 = false →
      b.byteIdx = 4 → b.bitIdx = 1 →
      streamOf b = (msbBits v0).drop 1 ++ msbBits v1 ++ msbBits v2 ++ msbBits v3 ++
        (msbBits v4).take 7 →
      let nibble (v : Byte) (k : Nat) : Nat := if k = 0 then v.toNat / 16 else v.toNat % 16
      let sum := nibble v0 0 + nibble v0 1 + nibble v1 0 + nibble v1 1 + nibble v2 0 + nibble v2 1 +
        nibble v3 0 + nibble v3 1 + nibble v4 0
      ∃ out, out.nibble = false ∧
        (if nibble v0 0 = 0xA ∧ sum % 16 = nibble v4 1 then
          analyzeTx3 cfg b sc = .ok ⟨out, some .tx3⟩ ∧ out.oby = 5 ∧
            (List.range 5).map (Memory.read out.obuf) = [v0, v1, v2, v3, v4]
        else analyzeTx3 cfg b sc = .ok ⟨out, none⟩)) ∧
    (¬ (b.byteIdx = 4 ∧ b.bitIdx = 1) → analyzeTx3 cfg b sc = .ok ⟨sc, none⟩)

/-- R216, R223, R224, R232, R233: the bucket's bits and the projected bit, which is 1 exactly when the
wave of `hightime` and the low time of `one` equals `one`, are KS300 nibbles, each with its separator 1,
and at most 4 further bits. The nibbles are the items, but for a low nibble whose byte a bit of the high
nibble has begun; the frame is accepted exactly when there are at least three items and the last two
are the XOR and the sum of the others. A separator 0, the projected bit included, makes the analyzer
fail. Rests on spec decisions D23, D29 and D30. -/
def Obligations.Ks300FrameIsReadBack : Prop :=
  ∀ (cfg : Config) (hightime : Half) (b : Bucket), legalConfig cfg → b.bitCount ≤ 8 * cfg.maxmsg →
    let stream := streamOf b ++ [waveEquals b.one hightime b.one.low b.state]
    (∀ (q : List (BitVec 4)) (extra : List Bool), extra.length ≤ 4 →
      stream = ks300Stream q ++ extra →
      let items := if q.length % 2 = 1 ∧ extra ≠ [] then q.dropLast else q
      let d := items.take (items.length - 2)
      let y := (cfg.ks300Y0.toNat + (d.map BitVec.toNat).sum + (xorAll d).toNat) % 16
      ∃ sc, sc.oby.toNat = items.length / 2 ∧ sc.nibble = decide (items.length % 2 = 1) ∧
        (∀ i < items.length,
          items.getD i 0 = (Memory.read sc.obuf (i / 2)).extractLsb' (4 * (i % 2)) 4) ∧
        analyzeKs300 cfg hightime b = .ok ⟨sc,
          if 3 ≤ items.length ∧ items.getD (items.length - 2) 0 = xorAll d ∧
            (items.getD (items.length - 1) 0).toNat = y
          then some .ks300 else none⟩) ∧
    (∀ (q : List (BitVec 4)) (v : BitVec 4) (rest : List Bool),
      stream = ks300Stream q ++ nibbleLsbBits v ++ [false] ++ rest →
      ∃ sc, analyzeKs300 cfg hightime b = .ok ⟨sc, none⟩)

/-- R234, R216, R212: a Hörmann bucket of 35 bits with a `zero` like (60, 30) is accepted without a
check: its four bytes, then its last three bits and the projected bit, which is 1 exactly when the wave
of `hightime` and the low time of `one` equals `one`, in the high nibble of the fifth. A bucket of
another length or with another `zero` fails and leaves the scratch unwritten. Rests on spec decisions
D30 and D52. -/
def Obligations.HoermannFrameIsReadBack : Prop :=
  ∀ (cfg : Config) (hightime : Half) (b : Bucket) (sc : Scratch), legalConfig cfg →
    let p := waveEquals b.one hightime b.one.low b.state
    (∀ (v0 v1 v2 v3 : Byte) (x y z : Bool),
      b.byteIdx = 4 → b.bitIdx = 4 → waveEquals b.zero 60 30 b.state = true →
      streamOf b = [v0, v1, v2, v3].flatMap msbBits ++ [x, y, z] →
      ∃ out, analyzeHoermann cfg hightime b sc = .ok ⟨out, some .hoermann⟩ ∧ out.oby = 5 ∧
        out.nibble = false ∧
        (List.range 5).map (Memory.read out.obuf) = [v0, v1, v2, v3,
          BitVec.ofNat 8 (128 * x.toNat + 64 * y.toNat + 32 * z.toNat + 16 * p.toNat)]) ∧
    (¬ (b.byteIdx = 4 ∧ b.bitIdx = 4) ∨ waveEquals b.zero 60 30 b.state = false →
      analyzeHoermann cfg hightime b sc = .ok ⟨sc, none⟩)

/-! ### Deduplicator and emitter -/

/-- R262: "Every frame that reaches `Dedup`, repeat or not, accepted or dropped, and whether or not
`REP_REPEATED` is set, becomes the new filter content"; R266: a datatype other than IT and TCM97001
sets `packageOK = !isRep`. A classified frame is one that reaches `Dedup`, once, on the frame the
analyzer left, then `EmitFrame` on what `Dedup` decided: the poll's flags, `repTime` and notice are
those of that `dedup` (statement DedupOutcome), its sink line that of that `emitFrame` (statement
FrameLineIsEmitted), and only the release follows. -/
def Obligations.EveryClassifiedFrameBecomesTheFilter : Prop :=
  ∀ s : State, Inv s → s.nrUsed ≠ 0 → ∃ t, exec .taskPoll s = .next t ∧
    ∀ dt, t.datatype = some dt →
      t.robuf = t.obuf ∧ t.roby.toNat = t.oby.toNat + t.nibble.toNat ∧
      (dt ≠ .it → dt ≠ .tcm97001 → t.packageOK = !t.isRep) ∧
      ∃ u v, dedup dt { s with
            obuf := t.obuf, oby := t.oby, nibble := t.nibble, datatype := t.datatype
            calls := t.calls } = .ok u ∧
        emitFrame dt u = .ok v ∧
        t.isRep = u.isRep ∧ t.isNotRep = u.isNotRep ∧ t.packageOK = u.packageOK ∧
        t.repTime = u.repTime ∧ t.notices = u.notices ∧ t.sink = v.sink ∧
        t = { v with buckets := t.buckets, outIdx := t.outIdx, nrUsed := t.nrUsed }

/-- R260 to R267: the deduplicator's outcome on every classified frame, with all it changes. The FHT
test reads `obuf[FHT_CTRL.index]` and `obuf[3]` as they stand, also beyond the item count: log entry 16,
DEDUCED, with R260 and R264, by which those bytes of a classified frame are 0 (the statement
PollReleasesOneBucket says so of every frame a poll leaves). Rests on spec decisions D33, D34, D36, D41
and D50; bits 1 and 6 as REP_REPEATED and REP_FHTPROTO are general knowledge, log entry 7, PRESUMED. -/
def Obligations.DedupOutcome : Prop :=
  ∀ (dt : Datatype) (s : State), s.configured → ScratchOk s →
    let m := s.oby.toNat + s.nibble.toNat
    let repeated : Prop := s.txReport.getLsbD 1 = false ∧ m = s.roby.toNat ∧
      (∀ j < m, Memory.read s.obuf j = Memory.read s.robuf j) ∧
      (s.ticks - s.repTime).toNat < s.cfg.reptime.toNat
    let synthetic : Prop := dt = .fht ∧ s.txReport.getLsbD 6 = false ∧
      (Memory.read s.obuf s.cfg.fhtCtrlIndex ∈ s.cfg.fhtCtrl ∨
        Memory.read s.obuf 3 &&& 0x70 = 0x70)
    ∃ t, dedup dt s = .ok t ∧
      (t.isRep = true ↔ repeated ∨ synthetic) ∧
      (dt = .it ∨ dt = .tcm97001 →
        (t.packageOK = true ↔ t.isRep = true ∧ s.isNotRep = false) ∧
        (t.isNotRep = true ↔ s.isNotRep = true ∨ t.isRep = true)) ∧
      (dt ≠ .it → dt ≠ .tcm97001 →
        (t.packageOK = true ↔ t.isRep = false) ∧ t.isNotRep = s.isNotRep) ∧
      t.roby.toNat = m ∧
      t = { s with
        isRep := t.isRep, isNotRep := t.isNotRep, packageOK := t.packageOK
        robuf := s.obuf, roby := t.roby, repTime := s.ticks
        notices := s.notices ++ if t.packageOK then [] else [.duplicate dt] }

/-- R269: of three identical IT or TCM97001 frames, each within REPTIME of the one before and with
no producer reset between, the first (not itself a repeat) is dropped, the second is accepted, the
third is dropped. The spec derives R269; bit 1 as REP_REPEATED is its decision D36 and general
knowledge, log entry 7, PRESUMED. -/
def Obligations.TwoOfTwoConfirmation : Prop :=
  ∀ (dt : Datatype) (s t₁ t₂ t₃ : State) (n₂ n₃ : Word),
    dt = .it ∨ dt = .tcm97001 → s.configured → ScratchOk s →
    s.txReport.getLsbD 1 = false → s.isNotRep = false →
    n₂.toNat < s.cfg.reptime.toNat → n₃.toNat < s.cfg.reptime.toNat →
    dedup dt s = .ok t₁ → t₁.isRep = false →
    dedup dt { t₁ with ticks := t₁.ticks + n₂ } = .ok t₂ →
    dedup dt { t₂ with ticks := t₂.ticks + n₃ } = .ok t₃ →
    t₁.packageOK = false ∧ t₂.packageOK = true ∧ t₃.packageOK = false

/-- R270 to R276, R15, R75: a frame is written when it is accepted and REP_KNOWN is set, and then as one
line of `1 + 2·oby + nibble + 2·[REP_RSSI] + 2` bytes: the datatype's character, each byte as two
uppercase hexadecimal digits, the high nibble first, the half byte's digit, the RSSI byte, CRLF;
otherwise nothing changes. Rests on spec decisions D35, D36 and D47; bits 0 and 5 as REP_KNOWN and
REP_RSSI are general knowledge, log entry 7, PRESUMED. -/
def Obligations.FrameLineIsEmitted : Prop :=
  ∀ (dt : Datatype) (s : State), s.configured → ScratchOk s →
    (s.packageOK = false ∨ s.txReport.getLsbD 0 = false → emitFrame dt s = .ok s) ∧
    (s.packageOK = true → s.txReport.getLsbD 0 = true →
      let digit (n : Nat) : Byte := BitVec.ofNat 8 (if n ≤ 9 then 0x30 + n else 0x41 + (n - 10))
      let pair (v : Byte) : List Byte := [digit (v.toNat / 16), digit (v.toNat % 16)]
      let c := s.cfg.typeChars
      let character : Byte := match dt with
        | .it => c.it | .tcm97001 => c.tcm97001 | .revolt => c.revolt | .esa => c.esa
        | .fs20 => c.fs20 | .fht => c.fht | .em => c.em | .hms => c.hms | .tx3 => c.tx3
        | .ks300 => c.ks300 | .hoermann => c.hoermann
      let bytes := (List.range s.oby.toNat).map (Memory.read s.obuf)
      let line := [character] ++ bytes.flatMap pair ++
        (if s.nibble then [digit ((Memory.read s.obuf s.oby.toNat).toNat % 16)] else []) ++
        (if s.txReport.getLsbD 5 then pair s.rssi else []) ++ [0x0D, 0x0A]
      emitFrame dt s = .ok { s with sink := s.sink ++ line } ∧
      line.length = 1 + 2 * s.oby.toNat + s.nibble.toNat +
        2 * (s.txReport.getLsbD 5).toNat + 2)

/-- R270, R344: while REP_KNOWN is clear no poll writes the sink. Rests on spec decisions D35, D36
and D42; bit 0 as REP_KNOWN is general knowledge, log entry 7, PRESUMED. -/
def Obligations.NoFrameLineWithoutRepKnown : Prop :=
  ∀ s t : State, s.txReport.getLsbD 0 = false → exec .taskPoll s = .next t → t.sink = s.sink

/-- R268: a poll calls the FHT collaborator exactly for the frames classified as FHT, with the
payload, whatever the deduplicator decides; it calls nothing else. Rests on spec decision D34. -/
def Obligations.FhtHookForEveryFhtFrame : Prop :=
  ∀ s t : State, s.nrUsed ≠ 0 → exec .taskPoll s = .next t →
    t.calls = s.calls ++ if t.datatype = some .fht then
      [.fhtHook ((List.range t.oby.toNat).map (Memory.read t.obuf))] else []

/-- R277: REP_MONITOR, REP_BINTIME and REP_LCDMON (bits 3, 4 and 7) change nothing: an event other
than a write of the register does the same under two values that differ in those bits only. Rests on
spec decisions D36 and D39; the bits of the flags are general knowledge, log entry 7, PRESUMED. -/
def Obligations.DebugFlagsHaveNoEffect : Prop :=
  ∀ (i : Instr) (s t : State) (v : Byte),
    (∀ imm, i ≠ .configure imm) → v &&& 0x67 = s.txReport &&& 0x67 → exec i s = .next t →
    exec i { s with txReport := v } = .next { t with txReport := if i = .hwReset then 0 else v }

/-! ### Host control and reset -/

/-- R290, R295: CONFIGURE writes `txReport`, resets the input and the repeat filter, notes a
cancelled frame, and changes nothing else. Rests on spec decisions D9, D10, D37 and D50. -/
def Obligations.ConfigureReentersReceive : Prop :=
  ∀ (s : State) (b : Bucket) (imm : Half), isProducer s b →
    exec (.configure imm) s = .next { s with
      txReport := imm.setWidth 8
      buckets := s.buckets.set s.inIdx.toNat Bucket.cleared
      ocie := false, isNotRep := false, isRep := false, packageOK := false
      roby := 0, robuf := [], repTime := 0
      notices := s.notices ++
        if b.state ≠ .reset ∨ 0 < b.bitCount then [.cancelled s.inIdx] else [] }

/-- R291, R295: RX_RESET resets the input and the repeat filter, notes a cancelled frame, and
changes nothing else. Rests on spec decisions D9, D10, D37 and D50. -/
def Obligations.RxResetReentersReceive : Prop :=
  ∀ (s : State) (b : Bucket), isProducer s b →
    exec .rxReset s = .next { s with
      buckets := s.buckets.set s.inIdx.toNat Bucket.cleared
      ocie := false, isNotRep := false, isRep := false, packageOK := false
      roby := 0, robuf := [], repTime := 0
      notices := s.notices ++
        if b.state ≠ .reset ∨ 0 < b.bitCount then [.cancelled s.inIdx] else [] }

/-- R292, R293: TICKS_ADV advances `ticks` by its count mod 2^32, SET_RSSI writes `rssi`; nothing
else changes. Rests on spec decisions D41 and D47. -/
def Obligations.InputRegisterWrites : Prop :=
  ∀ (s : State) (imm : Half),
    exec (.ticksAdv imm) s =
      .next { s with ticks := BitVec.ofNat 32 ((s.ticks.toNat + imm.toNat) % 2 ^ 32) } ∧
    exec (.setRssi imm) s = .next { s with rssi := BitVec.ofNat 8 (imm.toNat % 2 ^ 8) }

/-- R340, R341: HW_RESET gives every element its reset value, and keeps the parameters, the event
stream and the output traces. Rests on spec decision D42; the index kept is log entry 2. -/
def Obligations.HwResetRestoresEveryElement : Prop :=
  ∀ s : State, ∃ t, exec .hwReset s = .next t ∧
    t.tcnt = 0 ∧ t.ocr = 0 ∧ t.ocie = false ∧ t.hightime = 0 ∧ t.lowtime = 0 ∧
    t.buckets.length = s.cfg.nBuckets ∧
    (∀ b ∈ t.buckets, b.state = .reset ∧ b.zero = ⟨0, 0⟩ ∧ b.one = ⟨0, 0⟩ ∧ b.sync = 0 ∧
      b.byteIdx = 0 ∧ b.bitIdx = 7 ∧ ∀ j, Memory.read b.data j = 0) ∧
    t.inIdx = 0 ∧ t.outIdx = 0 ∧ t.nrUsed = 0 ∧
    (∀ j, Memory.read t.obuf j = 0) ∧ t.oby = 0 ∧ t.nibble = false ∧ t.datatype = none ∧
    (∀ j, Memory.read t.robuf j = 0) ∧ t.roby = 0 ∧ t.repTime = 0 ∧
    t.isRep = false ∧ t.isNotRep = false ∧ t.packageOK = false ∧
    t.txReport = 0 ∧ t.ticks = 0 ∧ t.rssi = 0 ∧ t.refused = false ∧
    t.sink = s.sink ∧ t.calls = s.calls ∧ t.notices = s.notices ∧
    t.cfg = s.cfg ∧ t.inputs = s.inputs ∧ t.index = s.index
end

