-- ==== Sys2Proof/Laws/Memory.lean ====
section
/-! SUPPORT. The laws of the byte arrays: a read after a write, the canonical form, and what each
named read and write of Machine/Ops.lean can do. -/

namespace Sys2Proof.Machine

@[simp] theorem Memory.read_nil (i : Nat) : Memory.read [] i = 0 := rfl

theorem Memory.wf_nil (bound : Nat) : Memory.wf bound [] := by simp [Memory.wf]

/-- The arrays of the reset state are in canonical form. -/
theorem reset_memory_wf : Memory.wf State.reset.cfg.maxmsg State.reset.obuf ∧
    Memory.wf State.reset.cfg.maxmsg State.reset.robuf ∧
    ∀ b ∈ State.reset.buckets, Memory.wf State.reset.cfg.maxmsg b.data := by
  refine ⟨Memory.wf_nil _, Memory.wf_nil _, fun b hb => ?_⟩
  rw [show State.reset.buckets = List.replicate 4 Bucket.cleared from rfl] at hb
  rw [List.eq_of_mem_replicate hb]
  exact Memory.wf_nil _

/-- An index no entry lists reads as 0. -/
theorem Memory.read_of_not_listed {m : Memory} {i : Nat} (h : ∀ c ∈ m, c.1 ≠ i) :
    Memory.read m i = 0 := by
  induction m with
  | nil => rfl
  | cons c m ih =>
    obtain ⟨k, v⟩ := c
    have hk : k ≠ i := h (k, v) (by simp)
    simp only [Memory.read, if_neg hk]
    exact ih fun c hc => h c (by simp [hc])

/-- In canonical form the entries after the first have larger indices. -/
theorem Memory.wf_cons {bound : Nat} {k : Nat} {v : Byte} {m : Memory} :
    Memory.wf bound ((k, v) :: m) ↔
      (∀ c ∈ m, k < c.1) ∧ k < bound ∧ v ≠ 0 ∧ Memory.wf bound m := by
  simp only [Memory.wf, List.pairwise_cons, List.mem_cons, forall_eq_or_imp]
  tauto

/-- Outside its bound a canonical array reads as 0. -/
theorem Memory.read_of_le {bound : Nat} {m : Memory} {i : Nat} (h : Memory.wf bound m)
    (hi : bound ≤ i) : Memory.read m i = 0 :=
  Memory.read_of_not_listed fun c hc he => by have := (h.2 c hc).1; omega

/-- A read after a write, in canonical form. -/
theorem Memory.read_write {bound : Nat} {m : Memory} (h : Memory.wf bound m) (i j : Nat) (v : Byte) :
    Memory.read (Memory.write m i v) j = if j = i then v else Memory.read m j := by
  induction m with
  | nil =>
    simp only [Memory.write]
    split
    · rename_i hv; simp [hv]
    · simp only [Memory.read, eq_comm]
  | cons c m ih =>
    obtain ⟨k, w⟩ := c
    obtain ⟨hk, hb, hw, hm⟩ := Memory.wf_cons.1 h
    have hrest : ∀ x, x ≤ k → Memory.read m x = 0 := fun x hx =>
      Memory.read_of_not_listed fun c hc he => by have := hk c hc; omega
    simp only [Memory.write]
    split
    · rename_i hik
      split
      · rename_i hv
        by_cases hj : j = i
        · subst hj
          simp [Memory.read, hv, show k ≠ j by omega, hrest j (by omega)]
        · simp [hj]
      · by_cases hj : j = i
        · simp [Memory.read, hj]
        · simp [Memory.read, hj, Ne.symm hj]
    · rename_i hik
      split
      · rename_i he
        subst he
        split
        · rename_i hv
          by_cases hj : j = i
          · subst hj; simp [hv, hrest j (le_refl j)]
          · simp [Memory.read, hj, Ne.symm hj]
        · by_cases hj : j = i
          · simp [Memory.read, hj]
          · simp [Memory.read, hj, Ne.symm hj]
      · rename_i he
        simp only [Memory.read, ih hm]
        by_cases hj : j = i
        · subst hj; simp [show k ≠ j by omega]
        · simp [hj]

/-- The entries of a written array are the written cell and entries of the old array. -/
theorem Memory.mem_write {m : Memory} {i : Nat} {v : Byte} {c : Host.Cell}
    (h : c ∈ Memory.write m i v) : (c = (i, v) ∧ v ≠ 0) ∨ c ∈ m := by
  induction m with
  | nil =>
    simp only [Memory.write] at h
    split at h
    · simp at h
    · exact .inl ⟨by simpa using h, by assumption⟩
  | cons d m ih =>
    obtain ⟨k, w⟩ := d
    simp only [Memory.write] at h
    split at h
    · split at h
      · exact .inr h
      · rcases List.mem_cons.1 h with h | h
        · exact .inl ⟨h, by assumption⟩
        · exact .inr h
    · split at h
      · split at h
        · exact .inr (by simp [h])
        · rcases List.mem_cons.1 h with h | h
          · exact .inl ⟨h, by assumption⟩
          · exact .inr (by simp [h])
      · rcases List.mem_cons.1 h with h | h
        · exact .inr (by simp [h])
        · rcases ih h with h | h
          · exact .inl h
          · exact .inr (by simp [h])

/-- A write keeps the canonical form. -/
theorem Memory.write_wf {bound : Nat} {m : Memory} (h : Memory.wf bound m) {i : Nat} (hi : i < bound)
    (v : Byte) : Memory.wf bound (Memory.write m i v) := by
  induction m with
  | nil =>
    simp only [Memory.write]
    split
    · exact h
    · exact Memory.wf_cons.2 ⟨by simp, hi, by assumption, h⟩
  | cons d m ih =>
    obtain ⟨k, w⟩ := d
    obtain ⟨hk, hb, hw, hm⟩ := Memory.wf_cons.1 h
    simp only [Memory.write]
    split
    · rename_i hik
      split
      · exact h
      · rename_i hv
        refine Memory.wf_cons.2 ⟨fun c hc => ?_, hi, hv, h⟩
        rcases List.mem_cons.1 hc with rfl | hc
        · exact hik
        · have := hk c hc; omega
    · rename_i hik
      split
      · rename_i he
        split
        · exact hm
        · rename_i hv
          exact Memory.wf_cons.2 ⟨by rw [he]; exact hk, hi, hv, hm⟩
      · rename_i he
        refine Memory.wf_cons.2 ⟨fun c hc => ?_, hb, hw, ih hm⟩
        rcases Memory.mem_write hc with ⟨rfl, -⟩ | hc
        · show k < i; omega
        · exact hk c hc

/-- Canonical arrays that read alike are equal. -/
theorem Memory.ext_of_wf {bound : Nat} {m n : Memory} (hm : Memory.wf bound m)
    (hn : Memory.wf bound n) (h : ∀ i, Memory.read m i = Memory.read n i) : m = n := by
  induction m generalizing n with
  | nil =>
    cases n with
    | nil => rfl
    | cons d n =>
      obtain ⟨k, w⟩ := d
      have := h k
      simp only [Memory.read, if_true] at this
      exact absurd this.symm (Memory.wf_cons.1 hn).2.2.1
  | cons c m ih =>
    obtain ⟨k, v⟩ := c
    obtain ⟨hk, -, hv, hm'⟩ := Memory.wf_cons.1 hm
    cases n with
    | nil =>
      have := h k
      simp only [Memory.read, if_true] at this
      exact absurd this hv
    | cons d n =>
      obtain ⟨l, w⟩ := d
      obtain ⟨hl, -, hw, hn'⟩ := Memory.wf_cons.1 hn
      have hmz : ∀ x, x ≤ k → Memory.read m x = 0 := fun x hx =>
        Memory.read_of_not_listed fun c hc he => by have := hk c hc; omega
      have hnz : ∀ x, x ≤ l → Memory.read n x = 0 := fun x hx =>
        Memory.read_of_not_listed fun c hc he => by have := hl c hc; omega
      have e1 := h k
      have e2 := h l
      simp only [Memory.read, if_true] at e1 e2
      have hkl : k = l := by
        rcases Nat.lt_trichotomy k l with hlt | heq | hgt
        · rw [if_neg (by omega), hnz k (by omega)] at e1; exact absurd e1 hv
        · exact heq
        · rw [if_neg (by omega), hmz l (by omega)] at e2; exact absurd e2.symm hw
      subst hkl
      rw [if_pos rfl] at e1
      subst e1
      congr 1
      refine ih hm' hn' fun i => ?_
      have := h i
      simp only [Memory.read] at this
      by_cases hi : k = i
      · subst hi; rw [hmz k le_rfl, hnz k le_rfl]
      · simpa [hi] using this

/-! ### The named reads and writes -/

theorem memRead_ok {cfg : Config} {m : Memory} {i : Nat} {v : Byte} :
    memRead cfg m i = .ok v ↔ i < cfg.maxmsg ∧ v = Memory.read m i := by
  unfold memRead
  split <;> simp_all [eq_comm]

theorem memWrite_ok {cfg : Config} {m : Memory} {i : Nat} {v : Byte} {m' : Memory} :
    memWrite cfg m i v = .ok m' ↔ i < cfg.maxmsg ∧ m' = Memory.write m i v := by
  unfold memWrite
  split <;> simp_all [eq_comm]

theorem memSlice_ok {cfg : Config} {m : Memory} {n : Nat} {bytes : List Byte} :
    memSlice cfg m n = .ok bytes ↔
      n ≤ cfg.maxmsg ∧ bytes = (List.range n).map (Memory.read m) := by
  unfold memSlice
  split <;> simp_all [eq_comm]

/-- `memRead` within the bound. -/
theorem memRead_of_lt {cfg : Config} {i : Nat} (m : Memory) (h : i < cfg.maxmsg) :
    memRead cfg m i = .ok (Memory.read m i) := if_pos h

/-- `memWrite` within the bound. -/
theorem memWrite_of_lt {cfg : Config} {i : Nat} (m : Memory) (v : Byte) (h : i < cfg.maxmsg) :
    memWrite cfg m i v = .ok (Memory.write m i v) := if_pos h

/-- `memSlice` within the bound. -/
theorem memSlice_of_le {cfg : Config} {n : Nat} (m : Memory) (h : n ≤ cfg.maxmsg) :
    memSlice cfg m n = .ok ((List.range n).map (Memory.read m)) := if_pos h

/-- What `memFill` does within the bound: the bytes stand at successive indices, no other byte
changes, and the canonical form is kept. -/
theorem memFill_of_le {cfg : Config} {m : Memory} (hm : Memory.wf cfg.maxmsg m) (i : Nat)
    (bytes : List Byte) (h : i + bytes.length ≤ cfg.maxmsg) :
    ∃ m', memFill cfg m i bytes = .ok m' ∧ Memory.wf cfg.maxmsg m' ∧
      ∀ j, Memory.read m' j =
        if i ≤ j ∧ j < i + bytes.length then bytes.getD (j - i) 0 else Memory.read m j := by
  induction bytes generalizing m i with
  | nil => exact ⟨m, rfl, hm, fun j => by rw [if_neg (by simp)]⟩
  | cons v rest ih =>
    simp only [List.length_cons] at h
    have hi : i < cfg.maxmsg := by omega
    obtain ⟨m', he, hw, hr⟩ := ih (Memory.write_wf hm hi v) (i + 1) (by omega)
    refine ⟨m', ?_, hw, fun j => ?_⟩
    · simp only [memFill, memWrite_of_lt m v hi]
      exact he
    · rw [hr j, Memory.read_write hm]
      simp only [List.length_cons]
      rcases Nat.lt_trichotomy j i with hj | rfl | hj
      · rw [if_neg (by omega), if_neg (by omega), if_neg (by omega)]
      · rw [if_neg (by omega), if_pos rfl, if_pos (by omega)]; simp
      · obtain ⟨d, rfl⟩ : ∃ d, j = i + 1 + d := ⟨j - (i + 1), by omega⟩
        rw [show i + 1 + d - (i + 1) = d by omega, show i + 1 + d - i = d + 1 by omega]
        by_cases hd : d < rest.length
        · rw [if_pos (by omega), if_pos (by omega)]; simp
        · rw [if_neg (by omega), if_neg (by omega), if_neg (by omega)]

/-- What `memFill` leaves when it answers: the canonical form. -/
theorem memFill_wf {cfg : Config} {m m' : Memory} (hm : Memory.wf cfg.maxmsg m) {i : Nat}
    {bytes : List Byte} (h : memFill cfg m i bytes = .ok m') : Memory.wf cfg.maxmsg m' := by
  induction bytes generalizing m i with
  | nil => cases h; exact hm
  | cons v rest ih =>
    by_cases hi : i < cfg.maxmsg
    · simp only [memFill, memWrite_of_lt m v hi] at h
      exact ih (Memory.write_wf hm hi v) h
    · simp only [memFill, memWrite, if_neg hi] at h
      cases h

end Sys2Proof.Machine
end

