-- ==== Sys2Proof/Laws/State.lean ====
section
/-! SUPPORT. What each named update of the state leaves in each field: one lemma per field per
update, so that no later proof unfolds a record update. -/

namespace Sys2Proof.Machine

/-! `raise` appends one notice (R311). -/

@[simp] theorem raise_cfg (n : Notice) (s : State) :
    (raise n s).cfg = s.cfg := rfl
@[simp] theorem raise_inputs (n : Notice) (s : State) :
    (raise n s).inputs = s.inputs := rfl
@[simp] theorem raise_index (n : Notice) (s : State) :
    (raise n s).index = s.index := rfl
@[simp] theorem raise_tcnt (n : Notice) (s : State) :
    (raise n s).tcnt = s.tcnt := rfl
@[simp] theorem raise_ocr (n : Notice) (s : State) :
    (raise n s).ocr = s.ocr := rfl
@[simp] theorem raise_ocie (n : Notice) (s : State) :
    (raise n s).ocie = s.ocie := rfl
@[simp] theorem raise_hightime (n : Notice) (s : State) :
    (raise n s).hightime = s.hightime := rfl
@[simp] theorem raise_lowtime (n : Notice) (s : State) :
    (raise n s).lowtime = s.lowtime := rfl
@[simp] theorem raise_buckets (n : Notice) (s : State) :
    (raise n s).buckets = s.buckets := rfl
@[simp] theorem raise_inIdx (n : Notice) (s : State) :
    (raise n s).inIdx = s.inIdx := rfl
@[simp] theorem raise_outIdx (n : Notice) (s : State) :
    (raise n s).outIdx = s.outIdx := rfl
@[simp] theorem raise_nrUsed (n : Notice) (s : State) :
    (raise n s).nrUsed = s.nrUsed := rfl
@[simp] theorem raise_obuf (n : Notice) (s : State) :
    (raise n s).obuf = s.obuf := rfl
@[simp] theorem raise_oby (n : Notice) (s : State) :
    (raise n s).oby = s.oby := rfl
@[simp] theorem raise_nibble (n : Notice) (s : State) :
    (raise n s).nibble = s.nibble := rfl
@[simp] theorem raise_datatype (n : Notice) (s : State) :
    (raise n s).datatype = s.datatype := rfl
@[simp] theorem raise_robuf (n : Notice) (s : State) :
    (raise n s).robuf = s.robuf := rfl
@[simp] theorem raise_roby (n : Notice) (s : State) :
    (raise n s).roby = s.roby := rfl
@[simp] theorem raise_repTime (n : Notice) (s : State) :
    (raise n s).repTime = s.repTime := rfl
@[simp] theorem raise_isRep (n : Notice) (s : State) :
    (raise n s).isRep = s.isRep := rfl
@[simp] theorem raise_isNotRep (n : Notice) (s : State) :
    (raise n s).isNotRep = s.isNotRep := rfl
@[simp] theorem raise_packageOK (n : Notice) (s : State) :
    (raise n s).packageOK = s.packageOK := rfl
@[simp] theorem raise_txReport (n : Notice) (s : State) :
    (raise n s).txReport = s.txReport := rfl
@[simp] theorem raise_ticks (n : Notice) (s : State) :
    (raise n s).ticks = s.ticks := rfl
@[simp] theorem raise_rssi (n : Notice) (s : State) :
    (raise n s).rssi = s.rssi := rfl
@[simp] theorem raise_refused (n : Notice) (s : State) :
    (raise n s).refused = s.refused := rfl
@[simp] theorem raise_sink (n : Notice) (s : State) :
    (raise n s).sink = s.sink := rfl
@[simp] theorem raise_calls (n : Notice) (s : State) :
    (raise n s).calls = s.calls := rfl
@[simp] theorem raise_notices (n : Notice) (s : State) :
    (raise n s).notices = s.notices ++ [n] := rfl

/-! `Emit` appends to the sink (R14). -/

@[simp] theorem emit_cfg (bytes : List Byte) (s : State) :
    (emit bytes s).cfg = s.cfg := rfl
@[simp] theorem emit_inputs (bytes : List Byte) (s : State) :
    (emit bytes s).inputs = s.inputs := rfl
@[simp] theorem emit_index (bytes : List Byte) (s : State) :
    (emit bytes s).index = s.index := rfl
@[simp] theorem emit_tcnt (bytes : List Byte) (s : State) :
    (emit bytes s).tcnt = s.tcnt := rfl
@[simp] theorem emit_ocr (bytes : List Byte) (s : State) :
    (emit bytes s).ocr = s.ocr := rfl
@[simp] theorem emit_ocie (bytes : List Byte) (s : State) :
    (emit bytes s).ocie = s.ocie := rfl
@[simp] theorem emit_hightime (bytes : List Byte) (s : State) :
    (emit bytes s).hightime = s.hightime := rfl
@[simp] theorem emit_lowtime (bytes : List Byte) (s : State) :
    (emit bytes s).lowtime = s.lowtime := rfl
@[simp] theorem emit_buckets (bytes : List Byte) (s : State) :
    (emit bytes s).buckets = s.buckets := rfl
@[simp] theorem emit_inIdx (bytes : List Byte) (s : State) :
    (emit bytes s).inIdx = s.inIdx := rfl
@[simp] theorem emit_outIdx (bytes : List Byte) (s : State) :
    (emit bytes s).outIdx = s.outIdx := rfl
@[simp] theorem emit_nrUsed (bytes : List Byte) (s : State) :
    (emit bytes s).nrUsed = s.nrUsed := rfl
@[simp] theorem emit_obuf (bytes : List Byte) (s : State) :
    (emit bytes s).obuf = s.obuf := rfl
@[simp] theorem emit_oby (bytes : List Byte) (s : State) :
    (emit bytes s).oby = s.oby := rfl
@[simp] theorem emit_nibble (bytes : List Byte) (s : State) :
    (emit bytes s).nibble = s.nibble := rfl
@[simp] theorem emit_datatype (bytes : List Byte) (s : State) :
    (emit bytes s).datatype = s.datatype := rfl
@[simp] theorem emit_robuf (bytes : List Byte) (s : State) :
    (emit bytes s).robuf = s.robuf := rfl
@[simp] theorem emit_roby (bytes : List Byte) (s : State) :
    (emit bytes s).roby = s.roby := rfl
@[simp] theorem emit_repTime (bytes : List Byte) (s : State) :
    (emit bytes s).repTime = s.repTime := rfl
@[simp] theorem emit_isRep (bytes : List Byte) (s : State) :
    (emit bytes s).isRep = s.isRep := rfl
@[simp] theorem emit_isNotRep (bytes : List Byte) (s : State) :
    (emit bytes s).isNotRep = s.isNotRep := rfl
@[simp] theorem emit_packageOK (bytes : List Byte) (s : State) :
    (emit bytes s).packageOK = s.packageOK := rfl
@[simp] theorem emit_txReport (bytes : List Byte) (s : State) :
    (emit bytes s).txReport = s.txReport := rfl
@[simp] theorem emit_ticks (bytes : List Byte) (s : State) :
    (emit bytes s).ticks = s.ticks := rfl
@[simp] theorem emit_rssi (bytes : List Byte) (s : State) :
    (emit bytes s).rssi = s.rssi := rfl
@[simp] theorem emit_refused (bytes : List Byte) (s : State) :
    (emit bytes s).refused = s.refused := rfl
@[simp] theorem emit_sink (bytes : List Byte) (s : State) :
    (emit bytes s).sink = s.sink ++ bytes := rfl
@[simp] theorem emit_calls (bytes : List Byte) (s : State) :
    (emit bytes s).calls = s.calls := rfl
@[simp] theorem emit_notices (bytes : List Byte) (s : State) :
    (emit bytes s).notices = s.notices := rfl

/-! `Hook` appends one call (R14). -/

@[simp] theorem hook_cfg (c : Call) (s : State) :
    (hook c s).cfg = s.cfg := rfl
@[simp] theorem hook_inputs (c : Call) (s : State) :
    (hook c s).inputs = s.inputs := rfl
@[simp] theorem hook_index (c : Call) (s : State) :
    (hook c s).index = s.index := rfl
@[simp] theorem hook_tcnt (c : Call) (s : State) :
    (hook c s).tcnt = s.tcnt := rfl
@[simp] theorem hook_ocr (c : Call) (s : State) :
    (hook c s).ocr = s.ocr := rfl
@[simp] theorem hook_ocie (c : Call) (s : State) :
    (hook c s).ocie = s.ocie := rfl
@[simp] theorem hook_hightime (c : Call) (s : State) :
    (hook c s).hightime = s.hightime := rfl
@[simp] theorem hook_lowtime (c : Call) (s : State) :
    (hook c s).lowtime = s.lowtime := rfl
@[simp] theorem hook_buckets (c : Call) (s : State) :
    (hook c s).buckets = s.buckets := rfl
@[simp] theorem hook_inIdx (c : Call) (s : State) :
    (hook c s).inIdx = s.inIdx := rfl
@[simp] theorem hook_outIdx (c : Call) (s : State) :
    (hook c s).outIdx = s.outIdx := rfl
@[simp] theorem hook_nrUsed (c : Call) (s : State) :
    (hook c s).nrUsed = s.nrUsed := rfl
@[simp] theorem hook_obuf (c : Call) (s : State) :
    (hook c s).obuf = s.obuf := rfl
@[simp] theorem hook_oby (c : Call) (s : State) :
    (hook c s).oby = s.oby := rfl
@[simp] theorem hook_nibble (c : Call) (s : State) :
    (hook c s).nibble = s.nibble := rfl
@[simp] theorem hook_datatype (c : Call) (s : State) :
    (hook c s).datatype = s.datatype := rfl
@[simp] theorem hook_robuf (c : Call) (s : State) :
    (hook c s).robuf = s.robuf := rfl
@[simp] theorem hook_roby (c : Call) (s : State) :
    (hook c s).roby = s.roby := rfl
@[simp] theorem hook_repTime (c : Call) (s : State) :
    (hook c s).repTime = s.repTime := rfl
@[simp] theorem hook_isRep (c : Call) (s : State) :
    (hook c s).isRep = s.isRep := rfl
@[simp] theorem hook_isNotRep (c : Call) (s : State) :
    (hook c s).isNotRep = s.isNotRep := rfl
@[simp] theorem hook_packageOK (c : Call) (s : State) :
    (hook c s).packageOK = s.packageOK := rfl
@[simp] theorem hook_txReport (c : Call) (s : State) :
    (hook c s).txReport = s.txReport := rfl
@[simp] theorem hook_ticks (c : Call) (s : State) :
    (hook c s).ticks = s.ticks := rfl
@[simp] theorem hook_rssi (c : Call) (s : State) :
    (hook c s).rssi = s.rssi := rfl
@[simp] theorem hook_refused (c : Call) (s : State) :
    (hook c s).refused = s.refused := rfl
@[simp] theorem hook_sink (c : Call) (s : State) :
    (hook c s).sink = s.sink := rfl
@[simp] theorem hook_calls (c : Call) (s : State) :
    (hook c s).calls = s.calls ++ [c] := rfl
@[simp] theorem hook_notices (c : Call) (s : State) :
    (hook c s).notices = s.notices := rfl

/-! a write of the producer bucket. -/

@[simp] theorem setProducer_cfg (b : Bucket) (s : State) :
    (setProducer b s).cfg = s.cfg := rfl
@[simp] theorem setProducer_inputs (b : Bucket) (s : State) :
    (setProducer b s).inputs = s.inputs := rfl
@[simp] theorem setProducer_index (b : Bucket) (s : State) :
    (setProducer b s).index = s.index := rfl
@[simp] theorem setProducer_tcnt (b : Bucket) (s : State) :
    (setProducer b s).tcnt = s.tcnt := rfl
@[simp] theorem setProducer_ocr (b : Bucket) (s : State) :
    (setProducer b s).ocr = s.ocr := rfl
@[simp] theorem setProducer_ocie (b : Bucket) (s : State) :
    (setProducer b s).ocie = s.ocie := rfl
@[simp] theorem setProducer_hightime (b : Bucket) (s : State) :
    (setProducer b s).hightime = s.hightime := rfl
@[simp] theorem setProducer_lowtime (b : Bucket) (s : State) :
    (setProducer b s).lowtime = s.lowtime := rfl
@[simp] theorem setProducer_buckets (b : Bucket) (s : State) :
    (setProducer b s).buckets = s.buckets.set s.inIdx.toNat b := rfl
@[simp] theorem setProducer_inIdx (b : Bucket) (s : State) :
    (setProducer b s).inIdx = s.inIdx := rfl
@[simp] theorem setProducer_outIdx (b : Bucket) (s : State) :
    (setProducer b s).outIdx = s.outIdx := rfl
@[simp] theorem setProducer_nrUsed (b : Bucket) (s : State) :
    (setProducer b s).nrUsed = s.nrUsed := rfl
@[simp] theorem setProducer_obuf (b : Bucket) (s : State) :
    (setProducer b s).obuf = s.obuf := rfl
@[simp] theorem setProducer_oby (b : Bucket) (s : State) :
    (setProducer b s).oby = s.oby := rfl
@[simp] theorem setProducer_nibble (b : Bucket) (s : State) :
    (setProducer b s).nibble = s.nibble := rfl
@[simp] theorem setProducer_datatype (b : Bucket) (s : State) :
    (setProducer b s).datatype = s.datatype := rfl
@[simp] theorem setProducer_robuf (b : Bucket) (s : State) :
    (setProducer b s).robuf = s.robuf := rfl
@[simp] theorem setProducer_roby (b : Bucket) (s : State) :
    (setProducer b s).roby = s.roby := rfl
@[simp] theorem setProducer_repTime (b : Bucket) (s : State) :
    (setProducer b s).repTime = s.repTime := rfl
@[simp] theorem setProducer_isRep (b : Bucket) (s : State) :
    (setProducer b s).isRep = s.isRep := rfl
@[simp] theorem setProducer_isNotRep (b : Bucket) (s : State) :
    (setProducer b s).isNotRep = s.isNotRep := rfl
@[simp] theorem setProducer_packageOK (b : Bucket) (s : State) :
    (setProducer b s).packageOK = s.packageOK := rfl
@[simp] theorem setProducer_txReport (b : Bucket) (s : State) :
    (setProducer b s).txReport = s.txReport := rfl
@[simp] theorem setProducer_ticks (b : Bucket) (s : State) :
    (setProducer b s).ticks = s.ticks := rfl
@[simp] theorem setProducer_rssi (b : Bucket) (s : State) :
    (setProducer b s).rssi = s.rssi := rfl
@[simp] theorem setProducer_refused (b : Bucket) (s : State) :
    (setProducer b s).refused = s.refused := rfl
@[simp] theorem setProducer_sink (b : Bucket) (s : State) :
    (setProducer b s).sink = s.sink := rfl
@[simp] theorem setProducer_calls (b : Bucket) (s : State) :
    (setProducer b s).calls = s.calls := rfl
@[simp] theorem setProducer_notices (b : Bucket) (s : State) :
    (setProducer b s).notices = s.notices := rfl

/-! `ResetInput` (R130). -/

@[simp] theorem resetInput_cfg (s : State) :
    (resetInput s).cfg = s.cfg := rfl
@[simp] theorem resetInput_inputs (s : State) :
    (resetInput s).inputs = s.inputs := rfl
@[simp] theorem resetInput_index (s : State) :
    (resetInput s).index = s.index := rfl
@[simp] theorem resetInput_tcnt (s : State) :
    (resetInput s).tcnt = s.tcnt := rfl
@[simp] theorem resetInput_ocr (s : State) :
    (resetInput s).ocr = s.ocr := rfl
@[simp] theorem resetInput_ocie (s : State) :
    (resetInput s).ocie = false := rfl
@[simp] theorem resetInput_hightime (s : State) :
    (resetInput s).hightime = s.hightime := rfl
@[simp] theorem resetInput_lowtime (s : State) :
    (resetInput s).lowtime = s.lowtime := rfl
@[simp] theorem resetInput_buckets (s : State) :
    (resetInput s).buckets = s.buckets.set s.inIdx.toNat Bucket.cleared := rfl
@[simp] theorem resetInput_inIdx (s : State) :
    (resetInput s).inIdx = s.inIdx := rfl
@[simp] theorem resetInput_outIdx (s : State) :
    (resetInput s).outIdx = s.outIdx := rfl
@[simp] theorem resetInput_nrUsed (s : State) :
    (resetInput s).nrUsed = s.nrUsed := rfl
@[simp] theorem resetInput_obuf (s : State) :
    (resetInput s).obuf = s.obuf := rfl
@[simp] theorem resetInput_oby (s : State) :
    (resetInput s).oby = s.oby := rfl
@[simp] theorem resetInput_nibble (s : State) :
    (resetInput s).nibble = s.nibble := rfl
@[simp] theorem resetInput_datatype (s : State) :
    (resetInput s).datatype = s.datatype := rfl
@[simp] theorem resetInput_robuf (s : State) :
    (resetInput s).robuf = s.robuf := rfl
@[simp] theorem resetInput_roby (s : State) :
    (resetInput s).roby = s.roby := rfl
@[simp] theorem resetInput_repTime (s : State) :
    (resetInput s).repTime = s.repTime := rfl
@[simp] theorem resetInput_isRep (s : State) :
    (resetInput s).isRep = s.isRep := rfl
@[simp] theorem resetInput_isNotRep (s : State) :
    (resetInput s).isNotRep = false := rfl
@[simp] theorem resetInput_packageOK (s : State) :
    (resetInput s).packageOK = s.packageOK := rfl
@[simp] theorem resetInput_txReport (s : State) :
    (resetInput s).txReport = s.txReport := rfl
@[simp] theorem resetInput_ticks (s : State) :
    (resetInput s).ticks = s.ticks := rfl
@[simp] theorem resetInput_rssi (s : State) :
    (resetInput s).rssi = s.rssi := rfl
@[simp] theorem resetInput_refused (s : State) :
    (resetInput s).refused = s.refused := rfl
@[simp] theorem resetInput_sink (s : State) :
    (resetInput s).sink = s.sink := rfl
@[simp] theorem resetInput_calls (s : State) :
    (resetInput s).calls = s.calls := rfl
@[simp] theorem resetInput_notices (s : State) :
    (resetInput s).notices = s.notices := rfl

/-! `Arm` (R131). -/

@[simp] theorem arm_cfg (v : Half) (s : State) :
    (arm v s).cfg = s.cfg := rfl
@[simp] theorem arm_inputs (v : Half) (s : State) :
    (arm v s).inputs = s.inputs := rfl
@[simp] theorem arm_index (v : Half) (s : State) :
    (arm v s).index = s.index := rfl
@[simp] theorem arm_tcnt (v : Half) (s : State) :
    (arm v s).tcnt = s.tcnt := rfl
@[simp] theorem arm_ocr (v : Half) (s : State) :
    (arm v s).ocr = v := rfl
@[simp] theorem arm_ocie (v : Half) (s : State) :
    (arm v s).ocie = true := rfl
@[simp] theorem arm_hightime (v : Half) (s : State) :
    (arm v s).hightime = s.hightime := rfl
@[simp] theorem arm_lowtime (v : Half) (s : State) :
    (arm v s).lowtime = s.lowtime := rfl
@[simp] theorem arm_buckets (v : Half) (s : State) :
    (arm v s).buckets = s.buckets := rfl
@[simp] theorem arm_inIdx (v : Half) (s : State) :
    (arm v s).inIdx = s.inIdx := rfl
@[simp] theorem arm_outIdx (v : Half) (s : State) :
    (arm v s).outIdx = s.outIdx := rfl
@[simp] theorem arm_nrUsed (v : Half) (s : State) :
    (arm v s).nrUsed = s.nrUsed := rfl
@[simp] theorem arm_obuf (v : Half) (s : State) :
    (arm v s).obuf = s.obuf := rfl
@[simp] theorem arm_oby (v : Half) (s : State) :
    (arm v s).oby = s.oby := rfl
@[simp] theorem arm_nibble (v : Half) (s : State) :
    (arm v s).nibble = s.nibble := rfl
@[simp] theorem arm_datatype (v : Half) (s : State) :
    (arm v s).datatype = s.datatype := rfl
@[simp] theorem arm_robuf (v : Half) (s : State) :
    (arm v s).robuf = s.robuf := rfl
@[simp] theorem arm_roby (v : Half) (s : State) :
    (arm v s).roby = s.roby := rfl
@[simp] theorem arm_repTime (v : Half) (s : State) :
    (arm v s).repTime = s.repTime := rfl
@[simp] theorem arm_isRep (v : Half) (s : State) :
    (arm v s).isRep = s.isRep := rfl
@[simp] theorem arm_isNotRep (v : Half) (s : State) :
    (arm v s).isNotRep = s.isNotRep := rfl
@[simp] theorem arm_packageOK (v : Half) (s : State) :
    (arm v s).packageOK = s.packageOK := rfl
@[simp] theorem arm_txReport (v : Half) (s : State) :
    (arm v s).txReport = s.txReport := rfl
@[simp] theorem arm_ticks (v : Half) (s : State) :
    (arm v s).ticks = s.ticks := rfl
@[simp] theorem arm_rssi (v : Half) (s : State) :
    (arm v s).rssi = s.rssi := rfl
@[simp] theorem arm_refused (v : Half) (s : State) :
    (arm v s).refused = s.refused := rfl
@[simp] theorem arm_sink (v : Half) (s : State) :
    (arm v s).sink = s.sink := rfl
@[simp] theorem arm_calls (v : Half) (s : State) :
    (arm v s).calls = s.calls := rfl
@[simp] theorem arm_notices (v : Half) (s : State) :
    (arm v s).notices = s.notices := rfl

/-! `Commit` (R133). -/

@[simp] theorem commit_cfg (s : State) :
    (commit s).cfg = s.cfg := rfl
@[simp] theorem commit_inputs (s : State) :
    (commit s).inputs = s.inputs := rfl
@[simp] theorem commit_index (s : State) :
    (commit s).index = s.index := rfl
@[simp] theorem commit_tcnt (s : State) :
    (commit s).tcnt = s.tcnt := rfl
@[simp] theorem commit_ocr (s : State) :
    (commit s).ocr = s.ocr := rfl
@[simp] theorem commit_ocie (s : State) :
    (commit s).ocie = s.ocie := rfl
@[simp] theorem commit_hightime (s : State) :
    (commit s).hightime = s.hightime := rfl
@[simp] theorem commit_lowtime (s : State) :
    (commit s).lowtime = s.lowtime := rfl
@[simp] theorem commit_buckets (s : State) :
    (commit s).buckets = s.buckets := rfl
@[simp] theorem commit_inIdx (s : State) :
    (commit s).inIdx = ringSucc s.cfg s.inIdx := rfl
@[simp] theorem commit_outIdx (s : State) :
    (commit s).outIdx = s.outIdx := rfl
@[simp] theorem commit_nrUsed (s : State) :
    (commit s).nrUsed = s.nrUsed + 1 := rfl
@[simp] theorem commit_obuf (s : State) :
    (commit s).obuf = s.obuf := rfl
@[simp] theorem commit_oby (s : State) :
    (commit s).oby = s.oby := rfl
@[simp] theorem commit_nibble (s : State) :
    (commit s).nibble = s.nibble := rfl
@[simp] theorem commit_datatype (s : State) :
    (commit s).datatype = s.datatype := rfl
@[simp] theorem commit_robuf (s : State) :
    (commit s).robuf = s.robuf := rfl
@[simp] theorem commit_roby (s : State) :
    (commit s).roby = s.roby := rfl
@[simp] theorem commit_repTime (s : State) :
    (commit s).repTime = s.repTime := rfl
@[simp] theorem commit_isRep (s : State) :
    (commit s).isRep = s.isRep := rfl
@[simp] theorem commit_isNotRep (s : State) :
    (commit s).isNotRep = s.isNotRep := rfl
@[simp] theorem commit_packageOK (s : State) :
    (commit s).packageOK = s.packageOK := rfl
@[simp] theorem commit_txReport (s : State) :
    (commit s).txReport = s.txReport := rfl
@[simp] theorem commit_ticks (s : State) :
    (commit s).ticks = s.ticks := rfl
@[simp] theorem commit_rssi (s : State) :
    (commit s).rssi = s.rssi := rfl
@[simp] theorem commit_refused (s : State) :
    (commit s).refused = s.refused := rfl
@[simp] theorem commit_sink (s : State) :
    (commit s).sink = s.sink := rfl
@[simp] theorem commit_calls (s : State) :
    (commit s).calls = s.calls := rfl
@[simp] theorem commit_notices (s : State) :
    (commit s).notices = s.notices := rfl

/-! `Release` (R134). -/

@[simp] theorem release_cfg (s : State) :
    (release s).cfg = s.cfg := rfl
@[simp] theorem release_inputs (s : State) :
    (release s).inputs = s.inputs := rfl
@[simp] theorem release_index (s : State) :
    (release s).index = s.index := rfl
@[simp] theorem release_tcnt (s : State) :
    (release s).tcnt = s.tcnt := rfl
@[simp] theorem release_ocr (s : State) :
    (release s).ocr = s.ocr := rfl
@[simp] theorem release_ocie (s : State) :
    (release s).ocie = s.ocie := rfl
@[simp] theorem release_hightime (s : State) :
    (release s).hightime = s.hightime := rfl
@[simp] theorem release_lowtime (s : State) :
    (release s).lowtime = s.lowtime := rfl
@[simp] theorem release_buckets (s : State) :
    (release s).buckets = s.buckets.set s.outIdx.toNat Bucket.cleared := rfl
@[simp] theorem release_inIdx (s : State) :
    (release s).inIdx = s.inIdx := rfl
@[simp] theorem release_outIdx (s : State) :
    (release s).outIdx = ringSucc s.cfg s.outIdx := rfl
@[simp] theorem release_nrUsed (s : State) :
    (release s).nrUsed = s.nrUsed - 1 := rfl
@[simp] theorem release_obuf (s : State) :
    (release s).obuf = s.obuf := rfl
@[simp] theorem release_oby (s : State) :
    (release s).oby = s.oby := rfl
@[simp] theorem release_nibble (s : State) :
    (release s).nibble = s.nibble := rfl
@[simp] theorem release_datatype (s : State) :
    (release s).datatype = s.datatype := rfl
@[simp] theorem release_robuf (s : State) :
    (release s).robuf = s.robuf := rfl
@[simp] theorem release_roby (s : State) :
    (release s).roby = s.roby := rfl
@[simp] theorem release_repTime (s : State) :
    (release s).repTime = s.repTime := rfl
@[simp] theorem release_isRep (s : State) :
    (release s).isRep = s.isRep := rfl
@[simp] theorem release_isNotRep (s : State) :
    (release s).isNotRep = s.isNotRep := rfl
@[simp] theorem release_packageOK (s : State) :
    (release s).packageOK = s.packageOK := rfl
@[simp] theorem release_txReport (s : State) :
    (release s).txReport = s.txReport := rfl
@[simp] theorem release_ticks (s : State) :
    (release s).ticks = s.ticks := rfl
@[simp] theorem release_rssi (s : State) :
    (release s).rssi = s.rssi := rfl
@[simp] theorem release_refused (s : State) :
    (release s).refused = s.refused := rfl
@[simp] theorem release_sink (s : State) :
    (release s).sink = s.sink := rfl
@[simp] theorem release_calls (s : State) :
    (release s).calls = s.calls := rfl
@[simp] theorem release_notices (s : State) :
    (release s).notices = s.notices := rfl

/-! `ClearRepeatFilter` (R295). -/

@[simp] theorem clearRepeatFilter_cfg (s : State) :
    (clearRepeatFilter s).cfg = s.cfg := rfl
@[simp] theorem clearRepeatFilter_inputs (s : State) :
    (clearRepeatFilter s).inputs = s.inputs := rfl
@[simp] theorem clearRepeatFilter_index (s : State) :
    (clearRepeatFilter s).index = s.index := rfl
@[simp] theorem clearRepeatFilter_tcnt (s : State) :
    (clearRepeatFilter s).tcnt = s.tcnt := rfl
@[simp] theorem clearRepeatFilter_ocr (s : State) :
    (clearRepeatFilter s).ocr = s.ocr := rfl
@[simp] theorem clearRepeatFilter_ocie (s : State) :
    (clearRepeatFilter s).ocie = s.ocie := rfl
@[simp] theorem clearRepeatFilter_hightime (s : State) :
    (clearRepeatFilter s).hightime = s.hightime := rfl
@[simp] theorem clearRepeatFilter_lowtime (s : State) :
    (clearRepeatFilter s).lowtime = s.lowtime := rfl
@[simp] theorem clearRepeatFilter_buckets (s : State) :
    (clearRepeatFilter s).buckets = s.buckets := rfl
@[simp] theorem clearRepeatFilter_inIdx (s : State) :
    (clearRepeatFilter s).inIdx = s.inIdx := rfl
@[simp] theorem clearRepeatFilter_outIdx (s : State) :
    (clearRepeatFilter s).outIdx = s.outIdx := rfl
@[simp] theorem clearRepeatFilter_nrUsed (s : State) :
    (clearRepeatFilter s).nrUsed = s.nrUsed := rfl
@[simp] theorem clearRepeatFilter_obuf (s : State) :
    (clearRepeatFilter s).obuf = s.obuf := rfl
@[simp] theorem clearRepeatFilter_oby (s : State) :
    (clearRepeatFilter s).oby = s.oby := rfl
@[simp] theorem clearRepeatFilter_nibble (s : State) :
    (clearRepeatFilter s).nibble = s.nibble := rfl
@[simp] theorem clearRepeatFilter_datatype (s : State) :
    (clearRepeatFilter s).datatype = s.datatype := rfl
@[simp] theorem clearRepeatFilter_robuf (s : State) :
    (clearRepeatFilter s).robuf = [] := rfl
@[simp] theorem clearRepeatFilter_roby (s : State) :
    (clearRepeatFilter s).roby = 0 := rfl
@[simp] theorem clearRepeatFilter_repTime (s : State) :
    (clearRepeatFilter s).repTime = 0 := rfl
@[simp] theorem clearRepeatFilter_isRep (s : State) :
    (clearRepeatFilter s).isRep = false := rfl
@[simp] theorem clearRepeatFilter_isNotRep (s : State) :
    (clearRepeatFilter s).isNotRep = s.isNotRep := rfl
@[simp] theorem clearRepeatFilter_packageOK (s : State) :
    (clearRepeatFilter s).packageOK = false := rfl
@[simp] theorem clearRepeatFilter_txReport (s : State) :
    (clearRepeatFilter s).txReport = s.txReport := rfl
@[simp] theorem clearRepeatFilter_ticks (s : State) :
    (clearRepeatFilter s).ticks = s.ticks := rfl
@[simp] theorem clearRepeatFilter_rssi (s : State) :
    (clearRepeatFilter s).rssi = s.rssi := rfl
@[simp] theorem clearRepeatFilter_refused (s : State) :
    (clearRepeatFilter s).refused = s.refused := rfl
@[simp] theorem clearRepeatFilter_sink (s : State) :
    (clearRepeatFilter s).sink = s.sink := rfl
@[simp] theorem clearRepeatFilter_calls (s : State) :
    (clearRepeatFilter s).calls = s.calls := rfl
@[simp] theorem clearRepeatFilter_notices (s : State) :
    (clearRepeatFilter s).notices = s.notices := rfl

/-! a refused word (R97). -/

@[simp] theorem refuseWord_cfg (w : Word) (s : State) :
    (refuseWord w s).cfg = s.cfg := rfl
@[simp] theorem refuseWord_inputs (w : Word) (s : State) :
    (refuseWord w s).inputs = s.inputs := rfl
@[simp] theorem refuseWord_index (w : Word) (s : State) :
    (refuseWord w s).index = s.index := rfl
@[simp] theorem refuseWord_tcnt (w : Word) (s : State) :
    (refuseWord w s).tcnt = s.tcnt := rfl
@[simp] theorem refuseWord_ocr (w : Word) (s : State) :
    (refuseWord w s).ocr = s.ocr := rfl
@[simp] theorem refuseWord_ocie (w : Word) (s : State) :
    (refuseWord w s).ocie = s.ocie := rfl
@[simp] theorem refuseWord_hightime (w : Word) (s : State) :
    (refuseWord w s).hightime = s.hightime := rfl
@[simp] theorem refuseWord_lowtime (w : Word) (s : State) :
    (refuseWord w s).lowtime = s.lowtime := rfl
@[simp] theorem refuseWord_buckets (w : Word) (s : State) :
    (refuseWord w s).buckets = s.buckets := rfl
@[simp] theorem refuseWord_inIdx (w : Word) (s : State) :
    (refuseWord w s).inIdx = s.inIdx := rfl
@[simp] theorem refuseWord_outIdx (w : Word) (s : State) :
    (refuseWord w s).outIdx = s.outIdx := rfl
@[simp] theorem refuseWord_nrUsed (w : Word) (s : State) :
    (refuseWord w s).nrUsed = s.nrUsed := rfl
@[simp] theorem refuseWord_obuf (w : Word) (s : State) :
    (refuseWord w s).obuf = s.obuf := rfl
@[simp] theorem refuseWord_oby (w : Word) (s : State) :
    (refuseWord w s).oby = s.oby := rfl
@[simp] theorem refuseWord_nibble (w : Word) (s : State) :
    (refuseWord w s).nibble = s.nibble := rfl
@[simp] theorem refuseWord_datatype (w : Word) (s : State) :
    (refuseWord w s).datatype = s.datatype := rfl
@[simp] theorem refuseWord_robuf (w : Word) (s : State) :
    (refuseWord w s).robuf = s.robuf := rfl
@[simp] theorem refuseWord_roby (w : Word) (s : State) :
    (refuseWord w s).roby = s.roby := rfl
@[simp] theorem refuseWord_repTime (w : Word) (s : State) :
    (refuseWord w s).repTime = s.repTime := rfl
@[simp] theorem refuseWord_isRep (w : Word) (s : State) :
    (refuseWord w s).isRep = s.isRep := rfl
@[simp] theorem refuseWord_isNotRep (w : Word) (s : State) :
    (refuseWord w s).isNotRep = s.isNotRep := rfl
@[simp] theorem refuseWord_packageOK (w : Word) (s : State) :
    (refuseWord w s).packageOK = s.packageOK := rfl
@[simp] theorem refuseWord_txReport (w : Word) (s : State) :
    (refuseWord w s).txReport = s.txReport := rfl
@[simp] theorem refuseWord_ticks (w : Word) (s : State) :
    (refuseWord w s).ticks = s.ticks := rfl
@[simp] theorem refuseWord_rssi (w : Word) (s : State) :
    (refuseWord w s).rssi = s.rssi := rfl
@[simp] theorem refuseWord_refused (w : Word) (s : State) :
    (refuseWord w s).refused = true := rfl
@[simp] theorem refuseWord_sink (w : Word) (s : State) :
    (refuseWord w s).sink = s.sink := rfl
@[simp] theorem refuseWord_calls (w : Word) (s : State) :
    (refuseWord w s).calls = s.calls := rfl
@[simp] theorem refuseWord_notices (w : Word) (s : State) :
    (refuseWord w s).notices = s.notices ++ [.refused w] := rfl

/-! the scratch after the analyzers (R211, R213). -/

@[simp] theorem setScratch_cfg (r : Analysis) (s : State) :
    (setScratch r s).cfg = s.cfg := rfl
@[simp] theorem setScratch_inputs (r : Analysis) (s : State) :
    (setScratch r s).inputs = s.inputs := rfl
@[simp] theorem setScratch_index (r : Analysis) (s : State) :
    (setScratch r s).index = s.index := rfl
@[simp] theorem setScratch_tcnt (r : Analysis) (s : State) :
    (setScratch r s).tcnt = s.tcnt := rfl
@[simp] theorem setScratch_ocr (r : Analysis) (s : State) :
    (setScratch r s).ocr = s.ocr := rfl
@[simp] theorem setScratch_ocie (r : Analysis) (s : State) :
    (setScratch r s).ocie = s.ocie := rfl
@[simp] theorem setScratch_hightime (r : Analysis) (s : State) :
    (setScratch r s).hightime = s.hightime := rfl
@[simp] theorem setScratch_lowtime (r : Analysis) (s : State) :
    (setScratch r s).lowtime = s.lowtime := rfl
@[simp] theorem setScratch_buckets (r : Analysis) (s : State) :
    (setScratch r s).buckets = s.buckets := rfl
@[simp] theorem setScratch_inIdx (r : Analysis) (s : State) :
    (setScratch r s).inIdx = s.inIdx := rfl
@[simp] theorem setScratch_outIdx (r : Analysis) (s : State) :
    (setScratch r s).outIdx = s.outIdx := rfl
@[simp] theorem setScratch_nrUsed (r : Analysis) (s : State) :
    (setScratch r s).nrUsed = s.nrUsed := rfl
@[simp] theorem setScratch_obuf (r : Analysis) (s : State) :
    (setScratch r s).obuf = r.scratch.obuf := rfl
@[simp] theorem setScratch_oby (r : Analysis) (s : State) :
    (setScratch r s).oby = r.scratch.oby := rfl
@[simp] theorem setScratch_nibble (r : Analysis) (s : State) :
    (setScratch r s).nibble = r.scratch.nibble := rfl
@[simp] theorem setScratch_datatype (r : Analysis) (s : State) :
    (setScratch r s).datatype = r.verdict := rfl
@[simp] theorem setScratch_robuf (r : Analysis) (s : State) :
    (setScratch r s).robuf = s.robuf := rfl
@[simp] theorem setScratch_roby (r : Analysis) (s : State) :
    (setScratch r s).roby = s.roby := rfl
@[simp] theorem setScratch_repTime (r : Analysis) (s : State) :
    (setScratch r s).repTime = s.repTime := rfl
@[simp] theorem setScratch_isRep (r : Analysis) (s : State) :
    (setScratch r s).isRep = s.isRep := rfl
@[simp] theorem setScratch_isNotRep (r : Analysis) (s : State) :
    (setScratch r s).isNotRep = s.isNotRep := rfl
@[simp] theorem setScratch_packageOK (r : Analysis) (s : State) :
    (setScratch r s).packageOK = s.packageOK := rfl
@[simp] theorem setScratch_txReport (r : Analysis) (s : State) :
    (setScratch r s).txReport = s.txReport := rfl
@[simp] theorem setScratch_ticks (r : Analysis) (s : State) :
    (setScratch r s).ticks = s.ticks := rfl
@[simp] theorem setScratch_rssi (r : Analysis) (s : State) :
    (setScratch r s).rssi = s.rssi := rfl
@[simp] theorem setScratch_refused (r : Analysis) (s : State) :
    (setScratch r s).refused = s.refused := rfl
@[simp] theorem setScratch_sink (r : Analysis) (s : State) :
    (setScratch r s).sink = s.sink := rfl
@[simp] theorem setScratch_calls (r : Analysis) (s : State) :
    (setScratch r s).calls = s.calls := rfl
@[simp] theorem setScratch_notices (r : Analysis) (s : State) :
    (setScratch r s).notices = s.notices := rfl

/-! the filter's replacement (R262, R263). -/

@[simp] theorem replaceFilter_cfg (s : State) :
    (replaceFilter s).cfg = s.cfg := rfl
@[simp] theorem replaceFilter_inputs (s : State) :
    (replaceFilter s).inputs = s.inputs := rfl
@[simp] theorem replaceFilter_index (s : State) :
    (replaceFilter s).index = s.index := rfl
@[simp] theorem replaceFilter_tcnt (s : State) :
    (replaceFilter s).tcnt = s.tcnt := rfl
@[simp] theorem replaceFilter_ocr (s : State) :
    (replaceFilter s).ocr = s.ocr := rfl
@[simp] theorem replaceFilter_ocie (s : State) :
    (replaceFilter s).ocie = s.ocie := rfl
@[simp] theorem replaceFilter_hightime (s : State) :
    (replaceFilter s).hightime = s.hightime := rfl
@[simp] theorem replaceFilter_lowtime (s : State) :
    (replaceFilter s).lowtime = s.lowtime := rfl
@[simp] theorem replaceFilter_buckets (s : State) :
    (replaceFilter s).buckets = s.buckets := rfl
@[simp] theorem replaceFilter_inIdx (s : State) :
    (replaceFilter s).inIdx = s.inIdx := rfl
@[simp] theorem replaceFilter_outIdx (s : State) :
    (replaceFilter s).outIdx = s.outIdx := rfl
@[simp] theorem replaceFilter_nrUsed (s : State) :
    (replaceFilter s).nrUsed = s.nrUsed := rfl
@[simp] theorem replaceFilter_obuf (s : State) :
    (replaceFilter s).obuf = s.obuf := rfl
@[simp] theorem replaceFilter_oby (s : State) :
    (replaceFilter s).oby = s.oby := rfl
@[simp] theorem replaceFilter_nibble (s : State) :
    (replaceFilter s).nibble = s.nibble := rfl
@[simp] theorem replaceFilter_datatype (s : State) :
    (replaceFilter s).datatype = s.datatype := rfl
@[simp] theorem replaceFilter_robuf (s : State) :
    (replaceFilter s).robuf = s.obuf := rfl
@[simp] theorem replaceFilter_roby (s : State) :
    (replaceFilter s).roby = BitVec.ofNat 8 (itemCount s) := rfl
@[simp] theorem replaceFilter_repTime (s : State) :
    (replaceFilter s).repTime = s.ticks := rfl
@[simp] theorem replaceFilter_isRep (s : State) :
    (replaceFilter s).isRep = s.isRep := rfl
@[simp] theorem replaceFilter_isNotRep (s : State) :
    (replaceFilter s).isNotRep = s.isNotRep := rfl
@[simp] theorem replaceFilter_packageOK (s : State) :
    (replaceFilter s).packageOK = s.packageOK := rfl
@[simp] theorem replaceFilter_txReport (s : State) :
    (replaceFilter s).txReport = s.txReport := rfl
@[simp] theorem replaceFilter_ticks (s : State) :
    (replaceFilter s).ticks = s.ticks := rfl
@[simp] theorem replaceFilter_rssi (s : State) :
    (replaceFilter s).rssi = s.rssi := rfl
@[simp] theorem replaceFilter_refused (s : State) :
    (replaceFilter s).refused = s.refused := rfl
@[simp] theorem replaceFilter_sink (s : State) :
    (replaceFilter s).sink = s.sink := rfl
@[simp] theorem replaceFilter_calls (s : State) :
    (replaceFilter s).calls = s.calls := rfl
@[simp] theorem replaceFilter_notices (s : State) :
    (replaceFilter s).notices = s.notices := rfl

/-! HW_RESET (R341). -/

@[simp] theorem hwReset_cfg (s : State) :
    (hwReset s).cfg = s.cfg := rfl
@[simp] theorem hwReset_inputs (s : State) :
    (hwReset s).inputs = s.inputs := rfl
@[simp] theorem hwReset_index (s : State) :
    (hwReset s).index = s.index := rfl
@[simp] theorem hwReset_tcnt (s : State) :
    (hwReset s).tcnt = 0 := rfl
@[simp] theorem hwReset_ocr (s : State) :
    (hwReset s).ocr = 0 := rfl
@[simp] theorem hwReset_ocie (s : State) :
    (hwReset s).ocie = false := rfl
@[simp] theorem hwReset_hightime (s : State) :
    (hwReset s).hightime = 0 := rfl
@[simp] theorem hwReset_lowtime (s : State) :
    (hwReset s).lowtime = 0 := rfl
@[simp] theorem hwReset_buckets (s : State) :
    (hwReset s).buckets = List.replicate s.cfg.nBuckets Bucket.cleared := rfl
@[simp] theorem hwReset_inIdx (s : State) :
    (hwReset s).inIdx = 0 := rfl
@[simp] theorem hwReset_outIdx (s : State) :
    (hwReset s).outIdx = 0 := rfl
@[simp] theorem hwReset_nrUsed (s : State) :
    (hwReset s).nrUsed = 0 := rfl
@[simp] theorem hwReset_obuf (s : State) :
    (hwReset s).obuf = [] := rfl
@[simp] theorem hwReset_oby (s : State) :
    (hwReset s).oby = 0 := rfl
@[simp] theorem hwReset_nibble (s : State) :
    (hwReset s).nibble = false := rfl
@[simp] theorem hwReset_datatype (s : State) :
    (hwReset s).datatype = none := rfl
@[simp] theorem hwReset_robuf (s : State) :
    (hwReset s).robuf = [] := rfl
@[simp] theorem hwReset_roby (s : State) :
    (hwReset s).roby = 0 := rfl
@[simp] theorem hwReset_repTime (s : State) :
    (hwReset s).repTime = 0 := rfl
@[simp] theorem hwReset_isRep (s : State) :
    (hwReset s).isRep = false := rfl
@[simp] theorem hwReset_isNotRep (s : State) :
    (hwReset s).isNotRep = false := rfl
@[simp] theorem hwReset_packageOK (s : State) :
    (hwReset s).packageOK = false := rfl
@[simp] theorem hwReset_txReport (s : State) :
    (hwReset s).txReport = 0 := rfl
@[simp] theorem hwReset_ticks (s : State) :
    (hwReset s).ticks = 0 := rfl
@[simp] theorem hwReset_rssi (s : State) :
    (hwReset s).rssi = 0 := rfl
@[simp] theorem hwReset_refused (s : State) :
    (hwReset s).refused = false := rfl
@[simp] theorem hwReset_sink (s : State) :
    (hwReset s).sink = s.sink := rfl
@[simp] theorem hwReset_calls (s : State) :
    (hwReset s).calls = s.calls := rfl
@[simp] theorem hwReset_notices (s : State) :
    (hwReset s).notices = s.notices := rfl

/-! the host's placement of an event word. -/

@[simp] theorem withFetchWord_cfg (nbits w : Nat) (s : State) :
    (s.withFetchWord nbits w).cfg = s.cfg := rfl
@[simp] theorem withFetchWord_inputs (nbits w : Nat) (s : State) :
    (s.withFetchWord nbits w).inputs = BitVec.ofNat 32 (w % 2 ^ nbits) :: s.inputs := rfl
@[simp] theorem withFetchWord_index (nbits w : Nat) (s : State) :
    (s.withFetchWord nbits w).index = s.index := rfl
@[simp] theorem withFetchWord_tcnt (nbits w : Nat) (s : State) :
    (s.withFetchWord nbits w).tcnt = s.tcnt := rfl
@[simp] theorem withFetchWord_ocr (nbits w : Nat) (s : State) :
    (s.withFetchWord nbits w).ocr = s.ocr := rfl
@[simp] theorem withFetchWord_ocie (nbits w : Nat) (s : State) :
    (s.withFetchWord nbits w).ocie = s.ocie := rfl
@[simp] theorem withFetchWord_hightime (nbits w : Nat) (s : State) :
    (s.withFetchWord nbits w).hightime = s.hightime := rfl
@[simp] theorem withFetchWord_lowtime (nbits w : Nat) (s : State) :
    (s.withFetchWord nbits w).lowtime = s.lowtime := rfl
@[simp] theorem withFetchWord_buckets (nbits w : Nat) (s : State) :
    (s.withFetchWord nbits w).buckets = s.buckets := rfl
@[simp] theorem withFetchWord_inIdx (nbits w : Nat) (s : State) :
    (s.withFetchWord nbits w).inIdx = s.inIdx := rfl
@[simp] theorem withFetchWord_outIdx (nbits w : Nat) (s : State) :
    (s.withFetchWord nbits w).outIdx = s.outIdx := rfl
@[simp] theorem withFetchWord_nrUsed (nbits w : Nat) (s : State) :
    (s.withFetchWord nbits w).nrUsed = s.nrUsed := rfl
@[simp] theorem withFetchWord_obuf (nbits w : Nat) (s : State) :
    (s.withFetchWord nbits w).obuf = s.obuf := rfl
@[simp] theorem withFetchWord_oby (nbits w : Nat) (s : State) :
    (s.withFetchWord nbits w).oby = s.oby := rfl
@[simp] theorem withFetchWord_nibble (nbits w : Nat) (s : State) :
    (s.withFetchWord nbits w).nibble = s.nibble := rfl
@[simp] theorem withFetchWord_datatype (nbits w : Nat) (s : State) :
    (s.withFetchWord nbits w).datatype = s.datatype := rfl
@[simp] theorem withFetchWord_robuf (nbits w : Nat) (s : State) :
    (s.withFetchWord nbits w).robuf = s.robuf := rfl
@[simp] theorem withFetchWord_roby (nbits w : Nat) (s : State) :
    (s.withFetchWord nbits w).roby = s.roby := rfl
@[simp] theorem withFetchWord_repTime (nbits w : Nat) (s : State) :
    (s.withFetchWord nbits w).repTime = s.repTime := rfl
@[simp] theorem withFetchWord_isRep (nbits w : Nat) (s : State) :
    (s.withFetchWord nbits w).isRep = s.isRep := rfl
@[simp] theorem withFetchWord_isNotRep (nbits w : Nat) (s : State) :
    (s.withFetchWord nbits w).isNotRep = s.isNotRep := rfl
@[simp] theorem withFetchWord_packageOK (nbits w : Nat) (s : State) :
    (s.withFetchWord nbits w).packageOK = s.packageOK := rfl
@[simp] theorem withFetchWord_txReport (nbits w : Nat) (s : State) :
    (s.withFetchWord nbits w).txReport = s.txReport := rfl
@[simp] theorem withFetchWord_ticks (nbits w : Nat) (s : State) :
    (s.withFetchWord nbits w).ticks = s.ticks := rfl
@[simp] theorem withFetchWord_rssi (nbits w : Nat) (s : State) :
    (s.withFetchWord nbits w).rssi = s.rssi := rfl
@[simp] theorem withFetchWord_refused (nbits w : Nat) (s : State) :
    (s.withFetchWord nbits w).refused = s.refused := rfl
@[simp] theorem withFetchWord_sink (nbits w : Nat) (s : State) :
    (s.withFetchWord nbits w).sink = s.sink := rfl
@[simp] theorem withFetchWord_calls (nbits w : Nat) (s : State) :
    (s.withFetchWord nbits w).calls = s.calls := rfl
@[simp] theorem withFetchWord_notices (nbits w : Nat) (s : State) :
    (s.withFetchWord nbits w).notices = s.notices := rfl

/-! `OverflowLine` (R203). -/

@[simp] theorem overflowLine_cfg (s : State) :
    (overflowLine s).cfg = s.cfg := by
  unfold overflowLine; split <;> rfl
@[simp] theorem overflowLine_inputs (s : State) :
    (overflowLine s).inputs = s.inputs := by
  unfold overflowLine; split <;> rfl
@[simp] theorem overflowLine_index (s : State) :
    (overflowLine s).index = s.index := by
  unfold overflowLine; split <;> rfl
@[simp] theorem overflowLine_tcnt (s : State) :
    (overflowLine s).tcnt = s.tcnt := by
  unfold overflowLine; split <;> rfl
@[simp] theorem overflowLine_ocr (s : State) :
    (overflowLine s).ocr = s.ocr := by
  unfold overflowLine; split <;> rfl
@[simp] theorem overflowLine_ocie (s : State) :
    (overflowLine s).ocie = s.ocie := by
  unfold overflowLine; split <;> rfl
@[simp] theorem overflowLine_hightime (s : State) :
    (overflowLine s).hightime = s.hightime := by
  unfold overflowLine; split <;> rfl
@[simp] theorem overflowLine_lowtime (s : State) :
    (overflowLine s).lowtime = s.lowtime := by
  unfold overflowLine; split <;> rfl
@[simp] theorem overflowLine_buckets (s : State) :
    (overflowLine s).buckets = s.buckets := by
  unfold overflowLine; split <;> rfl
@[simp] theorem overflowLine_inIdx (s : State) :
    (overflowLine s).inIdx = s.inIdx := by
  unfold overflowLine; split <;> rfl
@[simp] theorem overflowLine_outIdx (s : State) :
    (overflowLine s).outIdx = s.outIdx := by
  unfold overflowLine; split <;> rfl
@[simp] theorem overflowLine_nrUsed (s : State) :
    (overflowLine s).nrUsed = s.nrUsed := by
  unfold overflowLine; split <;> rfl
@[simp] theorem overflowLine_obuf (s : State) :
    (overflowLine s).obuf = s.obuf := by
  unfold overflowLine; split <;> rfl
@[simp] theorem overflowLine_oby (s : State) :
    (overflowLine s).oby = s.oby := by
  unfold overflowLine; split <;> rfl
@[simp] theorem overflowLine_nibble (s : State) :
    (overflowLine s).nibble = s.nibble := by
  unfold overflowLine; split <;> rfl
@[simp] theorem overflowLine_datatype (s : State) :
    (overflowLine s).datatype = s.datatype := by
  unfold overflowLine; split <;> rfl
@[simp] theorem overflowLine_robuf (s : State) :
    (overflowLine s).robuf = s.robuf := by
  unfold overflowLine; split <;> rfl
@[simp] theorem overflowLine_roby (s : State) :
    (overflowLine s).roby = s.roby := by
  unfold overflowLine; split <;> rfl
@[simp] theorem overflowLine_repTime (s : State) :
    (overflowLine s).repTime = s.repTime := by
  unfold overflowLine; split <;> rfl
@[simp] theorem overflowLine_isRep (s : State) :
    (overflowLine s).isRep = s.isRep := by
  unfold overflowLine; split <;> rfl
@[simp] theorem overflowLine_isNotRep (s : State) :
    (overflowLine s).isNotRep = s.isNotRep := by
  unfold overflowLine; split <;> rfl
@[simp] theorem overflowLine_packageOK (s : State) :
    (overflowLine s).packageOK = s.packageOK := by
  unfold overflowLine; split <;> rfl
@[simp] theorem overflowLine_txReport (s : State) :
    (overflowLine s).txReport = s.txReport := by
  unfold overflowLine; split <;> rfl
@[simp] theorem overflowLine_ticks (s : State) :
    (overflowLine s).ticks = s.ticks := by
  unfold overflowLine; split <;> rfl
@[simp] theorem overflowLine_rssi (s : State) :
    (overflowLine s).rssi = s.rssi := by
  unfold overflowLine; split <;> rfl
@[simp] theorem overflowLine_refused (s : State) :
    (overflowLine s).refused = s.refused := by
  unfold overflowLine; split <;> rfl
@[simp] theorem overflowLine_calls (s : State) :
    (overflowLine s).calls = s.calls := by
  unfold overflowLine; split <;> rfl
@[simp] theorem overflowLine_notices (s : State) :
    (overflowLine s).notices = s.notices := by
  unfold overflowLine; split <;> rfl

/-! the package flags (R265, R266). -/

@[simp] theorem decidePackage_cfg (dt : Datatype) (rep : Bool) (s : State) :
    (decidePackage dt rep s).cfg = s.cfg := by
  unfold decidePackage; split <;> (try split) <;> rfl
@[simp] theorem decidePackage_inputs (dt : Datatype) (rep : Bool) (s : State) :
    (decidePackage dt rep s).inputs = s.inputs := by
  unfold decidePackage; split <;> (try split) <;> rfl
@[simp] theorem decidePackage_index (dt : Datatype) (rep : Bool) (s : State) :
    (decidePackage dt rep s).index = s.index := by
  unfold decidePackage; split <;> (try split) <;> rfl
@[simp] theorem decidePackage_tcnt (dt : Datatype) (rep : Bool) (s : State) :
    (decidePackage dt rep s).tcnt = s.tcnt := by
  unfold decidePackage; split <;> (try split) <;> rfl
@[simp] theorem decidePackage_ocr (dt : Datatype) (rep : Bool) (s : State) :
    (decidePackage dt rep s).ocr = s.ocr := by
  unfold decidePackage; split <;> (try split) <;> rfl
@[simp] theorem decidePackage_ocie (dt : Datatype) (rep : Bool) (s : State) :
    (decidePackage dt rep s).ocie = s.ocie := by
  unfold decidePackage; split <;> (try split) <;> rfl
@[simp] theorem decidePackage_hightime (dt : Datatype) (rep : Bool) (s : State) :
    (decidePackage dt rep s).hightime = s.hightime := by
  unfold decidePackage; split <;> (try split) <;> rfl
@[simp] theorem decidePackage_lowtime (dt : Datatype) (rep : Bool) (s : State) :
    (decidePackage dt rep s).lowtime = s.lowtime := by
  unfold decidePackage; split <;> (try split) <;> rfl
@[simp] theorem decidePackage_buckets (dt : Datatype) (rep : Bool) (s : State) :
    (decidePackage dt rep s).buckets = s.buckets := by
  unfold decidePackage; split <;> (try split) <;> rfl
@[simp] theorem decidePackage_inIdx (dt : Datatype) (rep : Bool) (s : State) :
    (decidePackage dt rep s).inIdx = s.inIdx := by
  unfold decidePackage; split <;> (try split) <;> rfl
@[simp] theorem decidePackage_outIdx (dt : Datatype) (rep : Bool) (s : State) :
    (decidePackage dt rep s).outIdx = s.outIdx := by
  unfold decidePackage; split <;> (try split) <;> rfl
@[simp] theorem decidePackage_nrUsed (dt : Datatype) (rep : Bool) (s : State) :
    (decidePackage dt rep s).nrUsed = s.nrUsed := by
  unfold decidePackage; split <;> (try split) <;> rfl
@[simp] theorem decidePackage_obuf (dt : Datatype) (rep : Bool) (s : State) :
    (decidePackage dt rep s).obuf = s.obuf := by
  unfold decidePackage; split <;> (try split) <;> rfl
@[simp] theorem decidePackage_oby (dt : Datatype) (rep : Bool) (s : State) :
    (decidePackage dt rep s).oby = s.oby := by
  unfold decidePackage; split <;> (try split) <;> rfl
@[simp] theorem decidePackage_nibble (dt : Datatype) (rep : Bool) (s : State) :
    (decidePackage dt rep s).nibble = s.nibble := by
  unfold decidePackage; split <;> (try split) <;> rfl
@[simp] theorem decidePackage_datatype (dt : Datatype) (rep : Bool) (s : State) :
    (decidePackage dt rep s).datatype = s.datatype := by
  unfold decidePackage; split <;> (try split) <;> rfl
@[simp] theorem decidePackage_robuf (dt : Datatype) (rep : Bool) (s : State) :
    (decidePackage dt rep s).robuf = s.robuf := by
  unfold decidePackage; split <;> (try split) <;> rfl
@[simp] theorem decidePackage_roby (dt : Datatype) (rep : Bool) (s : State) :
    (decidePackage dt rep s).roby = s.roby := by
  unfold decidePackage; split <;> (try split) <;> rfl
@[simp] theorem decidePackage_repTime (dt : Datatype) (rep : Bool) (s : State) :
    (decidePackage dt rep s).repTime = s.repTime := by
  unfold decidePackage; split <;> (try split) <;> rfl
@[simp] theorem decidePackage_txReport (dt : Datatype) (rep : Bool) (s : State) :
    (decidePackage dt rep s).txReport = s.txReport := by
  unfold decidePackage; split <;> (try split) <;> rfl
@[simp] theorem decidePackage_ticks (dt : Datatype) (rep : Bool) (s : State) :
    (decidePackage dt rep s).ticks = s.ticks := by
  unfold decidePackage; split <;> (try split) <;> rfl
@[simp] theorem decidePackage_rssi (dt : Datatype) (rep : Bool) (s : State) :
    (decidePackage dt rep s).rssi = s.rssi := by
  unfold decidePackage; split <;> (try split) <;> rfl
@[simp] theorem decidePackage_refused (dt : Datatype) (rep : Bool) (s : State) :
    (decidePackage dt rep s).refused = s.refused := by
  unfold decidePackage; split <;> (try split) <;> rfl
@[simp] theorem decidePackage_sink (dt : Datatype) (rep : Bool) (s : State) :
    (decidePackage dt rep s).sink = s.sink := by
  unfold decidePackage; split <;> (try split) <;> rfl
@[simp] theorem decidePackage_calls (dt : Datatype) (rep : Bool) (s : State) :
    (decidePackage dt rep s).calls = s.calls := by
  unfold decidePackage; split <;> (try split) <;> rfl
@[simp] theorem decidePackage_notices (dt : Datatype) (rep : Bool) (s : State) :
    (decidePackage dt rep s).notices = s.notices := by
  unfold decidePackage; split <;> (try split) <;> rfl

/-! the notice of a dropped frame (R267). -/

@[simp] theorem noteDuplicate_cfg (dt : Datatype) (s : State) :
    (noteDuplicate dt s).cfg = s.cfg := by
  unfold noteDuplicate; split <;> rfl
@[simp] theorem noteDuplicate_inputs (dt : Datatype) (s : State) :
    (noteDuplicate dt s).inputs = s.inputs := by
  unfold noteDuplicate; split <;> rfl
@[simp] theorem noteDuplicate_index (dt : Datatype) (s : State) :
    (noteDuplicate dt s).index = s.index := by
  unfold noteDuplicate; split <;> rfl
@[simp] theorem noteDuplicate_tcnt (dt : Datatype) (s : State) :
    (noteDuplicate dt s).tcnt = s.tcnt := by
  unfold noteDuplicate; split <;> rfl
@[simp] theorem noteDuplicate_ocr (dt : Datatype) (s : State) :
    (noteDuplicate dt s).ocr = s.ocr := by
  unfold noteDuplicate; split <;> rfl
@[simp] theorem noteDuplicate_ocie (dt : Datatype) (s : State) :
    (noteDuplicate dt s).ocie = s.ocie := by
  unfold noteDuplicate; split <;> rfl
@[simp] theorem noteDuplicate_hightime (dt : Datatype) (s : State) :
    (noteDuplicate dt s).hightime = s.hightime := by
  unfold noteDuplicate; split <;> rfl
@[simp] theorem noteDuplicate_lowtime (dt : Datatype) (s : State) :
    (noteDuplicate dt s).lowtime = s.lowtime := by
  unfold noteDuplicate; split <;> rfl
@[simp] theorem noteDuplicate_buckets (dt : Datatype) (s : State) :
    (noteDuplicate dt s).buckets = s.buckets := by
  unfold noteDuplicate; split <;> rfl
@[simp] theorem noteDuplicate_inIdx (dt : Datatype) (s : State) :
    (noteDuplicate dt s).inIdx = s.inIdx := by
  unfold noteDuplicate; split <;> rfl
@[simp] theorem noteDuplicate_outIdx (dt : Datatype) (s : State) :
    (noteDuplicate dt s).outIdx = s.outIdx := by
  unfold noteDuplicate; split <;> rfl
@[simp] theorem noteDuplicate_nrUsed (dt : Datatype) (s : State) :
    (noteDuplicate dt s).nrUsed = s.nrUsed := by
  unfold noteDuplicate; split <;> rfl
@[simp] theorem noteDuplicate_obuf (dt : Datatype) (s : State) :
    (noteDuplicate dt s).obuf = s.obuf := by
  unfold noteDuplicate; split <;> rfl
@[simp] theorem noteDuplicate_oby (dt : Datatype) (s : State) :
    (noteDuplicate dt s).oby = s.oby := by
  unfold noteDuplicate; split <;> rfl
@[simp] theorem noteDuplicate_nibble (dt : Datatype) (s : State) :
    (noteDuplicate dt s).nibble = s.nibble := by
  unfold noteDuplicate; split <;> rfl
@[simp] theorem noteDuplicate_datatype (dt : Datatype) (s : State) :
    (noteDuplicate dt s).datatype = s.datatype := by
  unfold noteDuplicate; split <;> rfl
@[simp] theorem noteDuplicate_robuf (dt : Datatype) (s : State) :
    (noteDuplicate dt s).robuf = s.robuf := by
  unfold noteDuplicate; split <;> rfl
@[simp] theorem noteDuplicate_roby (dt : Datatype) (s : State) :
    (noteDuplicate dt s).roby = s.roby := by
  unfold noteDuplicate; split <;> rfl
@[simp] theorem noteDuplicate_repTime (dt : Datatype) (s : State) :
    (noteDuplicate dt s).repTime = s.repTime := by
  unfold noteDuplicate; split <;> rfl
@[simp] theorem noteDuplicate_isRep (dt : Datatype) (s : State) :
    (noteDuplicate dt s).isRep = s.isRep := by
  unfold noteDuplicate; split <;> rfl
@[simp] theorem noteDuplicate_isNotRep (dt : Datatype) (s : State) :
    (noteDuplicate dt s).isNotRep = s.isNotRep := by
  unfold noteDuplicate; split <;> rfl
@[simp] theorem noteDuplicate_packageOK (dt : Datatype) (s : State) :
    (noteDuplicate dt s).packageOK = s.packageOK := by
  unfold noteDuplicate; split <;> rfl
@[simp] theorem noteDuplicate_txReport (dt : Datatype) (s : State) :
    (noteDuplicate dt s).txReport = s.txReport := by
  unfold noteDuplicate; split <;> rfl
@[simp] theorem noteDuplicate_ticks (dt : Datatype) (s : State) :
    (noteDuplicate dt s).ticks = s.ticks := by
  unfold noteDuplicate; split <;> rfl
@[simp] theorem noteDuplicate_rssi (dt : Datatype) (s : State) :
    (noteDuplicate dt s).rssi = s.rssi := by
  unfold noteDuplicate; split <;> rfl
@[simp] theorem noteDuplicate_refused (dt : Datatype) (s : State) :
    (noteDuplicate dt s).refused = s.refused := by
  unfold noteDuplicate; split <;> rfl
@[simp] theorem noteDuplicate_sink (dt : Datatype) (s : State) :
    (noteDuplicate dt s).sink = s.sink := by
  unfold noteDuplicate; split <;> rfl
@[simp] theorem noteDuplicate_calls (dt : Datatype) (s : State) :
    (noteDuplicate dt s).calls = s.calls := by
  unfold noteDuplicate; split <;> rfl

@[simp] theorem overflowLine_sink (s : State) :
    (overflowLine s).sink = s.sink ++ if reportFlag s.txReport REP_BITS then bovfLine else [] := by
  unfold overflowLine; split <;> simp

@[simp] theorem decidePackage_isRep (dt : Datatype) (rep : Bool) (s : State) :
    (decidePackage dt rep s).isRep = rep := by
  unfold decidePackage; split <;> (try split) <;> rfl

@[simp] theorem decidePackage_isNotRep (dt : Datatype) (rep : Bool) (s : State) :
    (decidePackage dt rep s).isNotRep = (s.isNotRep || (needsConfirmation dt && rep)) := by
  unfold decidePackage
  cases hc : needsConfirmation dt <;> cases rep <;> cases s.isNotRep <;> rfl

@[simp] theorem decidePackage_packageOK (dt : Datatype) (rep : Bool) (s : State) :
    (decidePackage dt rep s).packageOK =
      if needsConfirmation dt then rep && !s.isNotRep else !rep := by
  unfold decidePackage; split <;> (try split) <;> simp_all

@[simp] theorem noteDuplicate_notices (dt : Datatype) (s : State) :
    (noteDuplicate dt s).notices = s.notices ++ if s.packageOK then [] else [.duplicate dt] := by
  unfold noteDuplicate; split <;> simp_all

end Sys2Proof.Machine
end

