-- ==== Sys2Proof/Laws/Ops.lean ====
section
/-! SUPPORT. What the shared operations of Machine/Ops.lean and the silence handler can do, said once
each, for proofs that cite them instead of unfolding. -/

namespace Sys2Proof.Machine

/-! ### Handlers as computations that may fault -/

@[simp] theorem ok_bind {α β : Type} (a : α) (f : α → Except Fault β) :
    (Except.ok a >>= f) = f a := rfl

@[simp] theorem error_bind {α β : Type} (e : Fault) (f : α → Except Fault β) :
    (Except.error e >>= f) = Except.error e := rfl

/-- A sequence answers exactly when both parts do. -/
theorem bind_eq_ok {α β : Type} {x : Except Fault α} {f : α → Except Fault β} {r : β} :
    (x >>= f) = .ok r ↔ ∃ a, x = .ok a ∧ f a = .ok r := by
  cases x with
  | error e => simp
  | ok a => simp

theorem complete_eq_next {r : Except Fault State} {t : State} :
    complete r = .next t ↔ r = .ok t := by
  cases r <;> simp [complete]

@[simp] theorem complete_ok (s : State) : complete (.ok s) = .next s := rfl

/-! ### The ring -/

theorem bucketAt_ok {s : State} {i : Byte} {b : Bucket} :
    bucketAt s i = .ok b ↔ s.buckets[i.toNat]? = some b := by
  unfold bucketAt
  split <;> simp_all

theorem producer_ok {s : State} {b : Bucket} : producer s = .ok b ↔ isProducer s b :=
  bucketAt_ok

theorem consumer_ok {s : State} {b : Bucket} : consumer s = .ok b ↔ isConsumer s b :=
  bucketAt_ok

/-- The ring's successor index as a number. -/
theorem ringSucc_toNat {c : Config} {i : Byte} (h2 : 0 < c.nBuckets) (h : c.nBuckets ≤ 256) :
    (ringSucc c i).toNat = (i.toNat + 1) % c.nBuckets := by
  have := Nat.mod_lt (i.toNat + 1) h2
  simp only [ringSucc, BitVec.toNat_ofNat]
  omega

/-- After a write of the producer bucket, the producer bucket is what was written. -/
theorem isProducer_setProducer {s : State} {b b' : Bucket} (h : isProducer s b) :
    isProducer (setProducer b' s) b' := by
  have := List.getElem?_eq_some_iff.1 h
  obtain ⟨hlt, -⟩ := this
  simp [isProducer, setProducer, hlt]

/-! ### Reset of the input -/

/-- `ResetInput` after a notice, as the one update the statements write. -/
theorem resetInput_raise (n : Notice) (s : State) :
    resetInput (raise n s) = inputResetWith [n] s := rfl

theorem resetInput_eq (s : State) : resetInput s = inputResetWith [] s := by
  simp [resetInput, inputResetWith, setProducer]

/-! ### The silence handler -/

theorem overflowLine_eq (s : State) :
    overflowLine s =
      { s with sink := s.sink ++ if reportFlag s.txReport REP_BITS then bovfLine else [] } := by
  unfold overflowLine
  split <;> simp [emit]

/-- Everything the silence handler can do: a false alarm, an overflow, or a commit (R200). -/
theorem silenceHandler_of_producer {s : State} {b : Bucket} (h : isProducer s b) :
    silenceHandler s = .ok (
      if falseAlarm b then inputResetWith [.frameTooShort s.inIdx] s
      else if ringFull s then
        { inputResetWith [.ringOverflow s.inIdx] s with
          sink := s.sink ++ if reportFlag s.txReport REP_BITS then bovfLine else [] }
      else
        { s with
          ocie := false, inIdx := ringSucc s.cfg s.inIdx, nrUsed := s.nrUsed + 1 }) := by
  have hp : producer { s with ocie := false } = .ok b := producer_ok.2 h
  simp only [silenceHandler, hp, ok_bind]
  split
  · rfl
  · split
    · rw [if_pos (by assumption), overflowLine_eq]; rfl
    · rw [if_neg (by assumption)]; rfl

theorem silenceHandler_ok {s t : State} (h : silenceHandler s = .ok t) : ∃ b, isProducer s b := by
  unfold silenceHandler at h
  obtain ⟨b, hb, -⟩ := bind_eq_ok.1 h
  exact ⟨b, producer_ok.1 hb⟩

/-- What is neither in progress beyond 15 bits nor in a data state is a false alarm (R201). -/
theorem falseAlarm_iff (b : Bucket) :
    falseAlarm b = true ↔ b.state ∈ [.reset, .init, .sync] ∨ b.byteIdx.toNat < 2 := by
  cases h : b.state <;> simp [falseAlarm, h, BucketState.code]

end Sys2Proof.Machine
end

