-- ==== Sys2Proof/Laws/Analyzers.lean ====
section
/-! SUPPORT. No analyzer indexes past its arrays: the scratch each of them leaves on a sound bucket. -/

namespace Sys2Proof.Machine

/-- The scratch is within its arrays (R47). -/
def ScratchFits (cfg : Config) (sc : Scratch) : Prop := Memory.wf cfg.maxmsg sc.obuf ∧ sc.oby.toNat
    + sc.nibble.toNat ≤ cfg.maxmsg

/-- Every byte of `obuf` from the item count on is 0 (R260, R264). -/
def ZeroBeyondItems (sc : Scratch) : Prop := ∀ j, sc.oby.toNat + sc.nibble.toNat ≤ j → Memory.read
    sc.obuf j = 0

/-- The extractor's variables after `p` bits: every output byte took at least nine of them. -/
structure GxOk (cfg : Config) (t : GxKind) (g : Gx) (p : Nat) : Prop where
  wf : Memory.wf cfg.maxmsg g.scratch.obuf
  lo : -1 ≤ g.obi
  hi : g.obi ≤ 7
  lt : g.scratch.oby.toNat < cfg.maxmsg
  bytes : 9 * g.scratch.oby.toNat + (7 - g.obi).toNat ≤ p
  rest : ∀ j, g.scratch.oby.toNat < j → Memory.read g.scratch.obuf j = 0

theorem gxNextByte_ok {cfg : Config} {t : GxKind} {g : Gx} {p : Nat} (hc : 13 ≤ cfg.maxmsg
    ∧ cfg.maxmsg ≤ 255) (h : GxOk cfg t g p) (h1 : g.obi = -1) (hp : p + 1 ≤ 8 * cfg.maxmsg + 1) : ∃
    g', gxNextByte cfg g = .ok (.more g') ∧ GxOk cfg t g' (p+1) := by
  have hb := h.bytes
  rw [h1] at hb
  have e : (g.scratch.oby + 1).toNat = g.scratch.oby.toNat + 1 := by
    have := h.lt; simp; omega
  have hl : (g.scratch.oby + 1).toNat < cfg.maxmsg := by omega
  refine ⟨⟨⟨Memory.write g.scratch.obuf (g.scratch.oby + 1).toNat 0, g.scratch.oby + 1,
      g.scratch.nibble⟩, 7⟩, ?_, ?_⟩
  · simp only [gxNextByte, memWrite_of_lt _ _ hl, ok_bind]
  · refine ⟨Memory.write_wf h.wf hl 0, by simp, by simp, hl, by simp only [e]; omega, ?_⟩
    intro j hj
    simp only [e] at hj
    rw [Memory.read_write h.wf]
    split
    · rfl
    · exact h.rest j (by omega)

/-- What a bit of the extractor leaves. -/
inductive GxOutcome (cfg : Config) (t : GxKind) (p : Nat) : Except Fault GxResult → Prop
  | more (g) (h : GxOk cfg t g p) : GxOutcome cfg t p (.ok (.more g))
  | fail (sc) (h : ScratchFits cfg sc) : GxOutcome cfg t p (.ok (.fail sc))

theorem GxOk.fits {cfg t g p} (h : GxOk cfg t g p) : ScratchFits cfg g.scratch := by
  have := h.lt
  exact ⟨h.wf, by cases g.scratch.nibble <;> simp <;> omega⟩

theorem gxStep_outcome {cfg : Config} {t : GxKind} {g : Gx} {p : Nat} (bit : Bool)
    (hc : 13 ≤ cfg.maxmsg ∧ cfg.maxmsg ≤ 255) (h : GxOk cfg t g p) (hp : p + 1 ≤ 8 * cfg.maxmsg +
    1) : GxOutcome cfg t (p+1) (gxStep cfg t bit g) := by
  have hdata : ∀ g : Gx, GxOk cfg t g p → g.obi ≠ -1 → GxOutcome cfg t (p+1) (gxDataBit cfg t bit
      g) := by
    intro g h hn
    have := h.lo; have := h.hi; have := h.bytes
    unfold gxDataBit
    split
    · rw [memRead_of_lt _ h.lt]
      simp only [ok_bind, memWrite_of_lt _ _ h.lt]
      refine .more _ ⟨Memory.write_wf h.wf h.lt _, ?_, ?_, h.lt, ?_, fun j hj => ?_⟩
      · simp only; omega
      · simp only; omega
      · simp only; omega
      · rw [Memory.read_write h.wf, if_neg (by simp only at hj; omega)]
        exact h.rest j hj
    · refine .more _ ⟨h.wf, ?_, ?_, h.lt, ?_, h.rest⟩ <;> simp only <;> omega
  have hnext : ∀ g : Gx, GxOk cfg t g p → g.obi = -1 → GxOutcome cfg t (p+1) (gxNextByte cfg g) :=
      by
    intro g h h1
    obtain ⟨g', e, hg⟩ := gxNextByte_ok hc h h1 hp
    rw [e]; exact .more _ hg
  unfold gxStep
  split
  · split
    · exact .fail _ (GxOk.fits h)
    · exact hnext g h (by tauto)
  · split
    · split
      · exact .fail _ (GxOk.fits h)
      · exact .more _ ⟨h.wf, h.lo, h.hi, h.lt, by have := h.bytes; simp only; omega, h.rest⟩
    · have hg : ∀ g' : Gx, g' = (if t = .ks300 ∧ g.obi = 3 then
          (⟨⟨g.scratch.obuf, g.scratch.oby, false⟩, g.obi⟩ : Gx) else g) → GxOutcome cfg t (p+1)
          (if g'.obi = -1 then gxCheckBit cfg t bit g' else gxDataBit cfg t bit g') := by
        intro g' e
        have h' : GxOk cfg t g' p := by
          rw [e]; split
          · exact ⟨h.wf, h.lo, h.hi, h.lt, h.bytes, h.rest⟩
          · exact h
        split
        · unfold gxCheckBit
          split
          · rw [memRead_of_lt _ h'.lt]
            simp only [ok_bind]
            split
            · exact hnext _ h' ‹_›
            · exact .fail _ (GxOk.fits h')
          · split
            · exact hnext _ h' ‹_›
            · exact .fail _ (GxOk.fits h')
          · exact hnext _ h' ‹_›
        · exact hdata _ h' ‹_›
      exact hg _ rfl

theorem gxLoop_outcome {cfg : Config} {t : GxKind} (hc : 13 ≤ cfg.maxmsg ∧ cfg.maxmsg ≤ 255)
    (S : List Bool) {g : Gx} {p : Nat} (h : GxOk cfg t g p) (hp : p + S.length ≤ 8 * cfg.maxmsg +
    1) : GxOutcome cfg t (p + S.length) (gxLoop cfg t S g) := by
  induction S generalizing g p with
  | nil => exact .more _ h
  | cons bit rest ih =>
    simp only [List.length_cons] at hp
    have := gxStep_outcome bit hc h (by omega)
    unfold gxLoop
    generalize hr : gxStep cfg t bit g = r at this
    cases this with
    | more g' h' =>
      simp only [ok_bind]
      have := ih h' (by omega)
      rw [show p + 1 + rest.length = p + (bit :: rest).length by simp; omega] at this
      exact this
    | fail sc h' => exact .fail _ h'

/-- After the stream, EM's last byte included: within the arrays, one byte to spare unless a half byte
fills it, and nothing beyond `obuf[oby]`. -/
theorem gxFinish_ok {cfg : Config} {t : GxKind} {g : Gx} {p : Nat} (hc : 13 ≤ cfg.maxmsg
    ∧ cfg.maxmsg ≤ 255) (h : GxOk cfg t g p) (hp : p ≤ 8 * cfg.maxmsg + 1) :
    Memory.wf cfg.maxmsg (gxFinish t g).obuf ∧ (gxFinish t g).oby.toNat < cfg.maxmsg ∧
    ∀ j, (gxFinish t g).oby.toNat < j → Memory.read (gxFinish t g).obuf j = 0 := by
  unfold gxFinish
  split
  · have := h.bytes; have := h.lt
    have e : (g.scratch.oby + 1).toNat = g.scratch.oby.toNat + 1 := by simp; omega
    refine ⟨h.wf, by simp only [e]; omega, fun j hj => h.rest j ?_⟩
    simp only [e] at hj; omega
  · exact ⟨h.wf, h.lt, h.rest⟩

/-- Dropping the incomplete group leaves the items, and 0 beyond them. -/
theorem gxDropPartial_ok {cfg : Config} {sc : Scratch} (hw : Memory.wf cfg.maxmsg sc.obuf)
    (hl : sc.oby.toNat < cfg.maxmsg) (h0 : ∀ j, sc.oby.toNat < j → Memory.read sc.obuf j = 0) :
    ∃ sc', gxDropPartial cfg sc = .ok sc' ∧ sc'.oby = sc.oby ∧ sc'.nibble = sc.nibble ∧
    (∀ j < sc.oby.toNat + sc.nibble.toNat, Memory.read sc'.obuf j = Memory.read sc.obuf j) ∧
    ScratchFits cfg sc' ∧ ZeroBeyondItems sc' := by
  unfold gxDropPartial
  cases hn : sc.nibble
  · rw [if_neg (by simp), memWrite_of_lt _ _ hl]
    refine ⟨_, rfl, rfl, rfl, fun j hj => ?_, ⟨Memory.write_wf hw hl 0, by simp; omega⟩,
      fun j hj => ?_⟩
    · simp at hj
      rw [Memory.read_write hw, if_neg (by omega)]
    · simp at hj
      simp only [Memory.read_write hw]
      split
      · rfl
      · exact h0 j (by omega)
  · refine ⟨sc, by simp, rfl, hn, fun _ _ => rfl, ⟨hw, by simp [hn]; omega⟩, fun j hj => h0 j ?_⟩
    simp [hn] at hj; omega

/-- The extractor never faults on a stream of at most `8·MAXMSG + 1` bits, and where it returns OK it
leaves at least one item and 0 beyond the items. -/
theorem gx_fits {cfg : Config} {t : GxKind} (hc : 13 ≤ cfg.maxmsg ∧ cfg.maxmsg ≤ 255)
    (S : List Bool) (hp : S.length ≤ 8 * cfg.maxmsg + 1) : ∃ sc r, gx cfg t S = .ok (sc, r) ∧
    ScratchFits cfg sc ∧ (r = true → 1 ≤ sc.oby.toNat + sc.nibble.toNat ∧ ZeroBeyondItems sc) := by
  have h0 : 0 < cfg.maxmsg := by omega
  have hi : GxOk cfg t ⟨⟨Memory.write [] 0 0, 0, false⟩, 7⟩ 0 := ⟨Memory.write_wf (Memory.wf_nil _)
      h0 0, by simp, by simp, h0, by simp, fun _ _ => rfl⟩
  have := gxLoop_outcome hc S hi (by omega)
  simp only [gx, memWrite_of_lt _ _ h0, ok_bind]
  generalize hr : gxLoop cfg t S _ = r at this
  cases this with
  | more g h =>
    obtain ⟨hw, hl, hz⟩ := gxFinish_ok hc h (by omega)
    simp only [ok_bind]
    split
    · rename_i he
      exact ⟨_, _, rfl, ⟨hw, by rw [he.2]; simp; omega⟩, by simp⟩
    · rename_i hne
      obtain ⟨sc', e, ho, hn, -, hf, hz'⟩ := gxDropPartial_ok hw hl hz
      refine ⟨sc', true, by rw [e]; rfl, hf, fun _ => ⟨?_, hz'⟩⟩
      by_contra hlt
      have h2 : sc'.oby = 0 := BitVec.eq_of_toNat_eq (by simp; omega)
      have h3 : sc'.nibble = false := by cases hb : sc'.nibble <;> simp_all
      exact hne ⟨ho ▸ h2, hn ▸ h3⟩
  | fail sc h => exact ⟨_, _, rfl, h, by simp⟩

/-- The computation answers with a scratch within its arrays and, where it accepts, with 0 beyond the
items (R213). -/
def AnalyzesTo (cfg : Config) (r : Except Fault Analysis) : Prop := ∃ a, r = .ok a ∧ ScratchFits cfg
    a.scratch ∧ (a.verdict ≠ none → ZeroBeyondItems a.scratch)

/-- An analyzer that rejects leaves a scratch within its arrays. -/
theorem analyzesTo_fail {cfg : Config} {sc : Scratch} (h : ScratchFits cfg sc) :
    AnalyzesTo cfg (.ok ⟨sc, none⟩) := ⟨_, rfl, h, fun h => absurd rfl h⟩

/-- An analyzer that answers with a scratch that is 0 beyond its items. -/
theorem analyzesTo_ok {cfg : Config} {sc : Scratch} {v : Option Datatype} (h : ScratchFits cfg sc)
    (hz : ZeroBeyondItems sc) : AnalyzesTo cfg (.ok ⟨sc, v⟩) := ⟨_, rfl, h, fun _ => hz⟩

theorem clearedScratch_fits (cfg : Config) : ScratchFits cfg clearedScratch :=
    ⟨Memory.wf_nil _, by simp [clearedScratch]⟩

theorem acceptBytes_fits {cfg : Config} (hm : cfg.maxmsg ≤ 255) (dt bytes) (h : bytes.length ≤
    cfg.maxmsg) : AnalyzesTo cfg (acceptBytes cfg dt bytes) := by
  obtain ⟨m', e, hw, hr⟩ := memFill_of_le (Memory.wf_nil cfg.maxmsg) 0 bytes (by omega)
  have hl : (BitVec.ofNat 8 bytes.length).toNat = bytes.length := by simp; omega
  refine ⟨⟨⟨m', BitVec.ofNat 8 bytes.length, false⟩, some dt⟩, ?_, ⟨hw, ?_⟩, fun _ j hj => ?_⟩
  · simp only [acceptBytes, e, ok_bind]
  · simp only [hl]; simpa using h
  · simp only [hl, Bool.toNat_false] at hj
    rw [hr, if_neg (by omega)]; rfl

theorem bitStream_eq {cfg : Config} {b : Bucket} (h : b.bitCount ≤ 8 * cfg.maxmsg) : bitStream cfg b
    = .ok (streamOf b) := if_pos h

theorem streamOf_length (b : Bucket) : (streamOf b).length = b.bitCount := by simp [streamOf]

theorem hmsGroups_fits {cfg : Config} (S : List Bool) (l : List Nat) (obuf : Memory) (x : Byte)
    (hl : ∀ i ∈ l, i < cfg.maxmsg) (hw : Memory.wf cfg.maxmsg obuf) : ∃ o x' p, hmsGroups cfg S l
    obuf x = .ok (o, x', p) ∧ Memory.wf cfg.maxmsg o ∧
    ∀ j, j ∉ l → Memory.read o j = Memory.read obuf j := by
  induction l generalizing obuf x with
  | nil => exact ⟨_, _, _, rfl, hw, fun _ _ => rfl⟩
  | cons i l ih =>
    unfold hmsGroups
    dsimp only
    split
    · exact ⟨_, _, _, rfl, hw, fun _ _ => rfl⟩
    · split
      · exact ⟨_, _, _, rfl, hw, fun _ _ => rfl⟩
      · rw [memWrite_of_lt _ _ (hl i (by simp))]
        simp only [ok_bind]
        obtain ⟨o, x', p, e, hw', hr⟩ := ih (Memory.write obuf i (getByte S (10 * i)))
          (x ^^^ getByte S (10 * i)) (fun j hj => hl j (by simp [hj]))
          (Memory.write_wf hw (hl i (by simp)) _)
        refine ⟨o, x', p, e, hw', fun j hj => ?_⟩
        simp only [List.mem_cons, not_or] at hj
        rw [hr j hj.2, Memory.read_write hw, if_neg hj.1]

theorem esaCipher_length (s : Byte) (l : List Byte) : (esaCipher s l).length = l.length := by
  induction l generalizing s with
  | nil => rfl
  | cons a l ih => cases l with
    | nil => rfl
    | cons b l => simp [esaCipher] at ih ⊢; rw [ih]

/-- No analyzer faults on a sound bucket. -/
theorem analyze_fits {cfg : Config} (hl : legalConfig cfg) (a : Analyzer) (hh b sc)
    (hb : BucketOk cfg b) (hsc : ScratchFits cfg sc) : AnalyzesTo cfg (analyze a cfg hh b
    sc) := by
  have hc : 13 ≤ cfg.maxmsg ∧ cfg.maxmsg ≤ 255 := ⟨hl.2.2.1, hl.2.2.2.1⟩
  have hbc : b.bitCount ≤ 8 * cfg.maxmsg := by
    have := b.bitIdx.isLt
    unfold Bucket.bitCount
    rcases hb.cursor with h | ⟨h, h7⟩
    · omega
    · rw [h7, h]; simp
  have hst := bitStream_eq hbc
  have hlen := streamOf_length b
  have hfail : AnalyzesTo cfg (.ok ⟨clearedScratch, none⟩) :=
    analyzesTo_fail (clearedScratch_fits _)
  have hkeep : AnalyzesTo cfg (.ok ⟨sc, none⟩) := analyzesTo_fail hsc
  cases a
  · show AnalyzesTo cfg (analyzeIt cfg b sc)
    unfold analyzeIt
    split
    · split
      · rename_i h
        have : b.byteIdx.toNat ≤ 8 := by rcases h with ⟨h, -⟩ | ⟨h, -⟩ <;> rw [h] <;> decide
        rw [memSlice_of_le _ (by omega)]
        simp only [ok_bind]
        exact acceptBytes_fits hc.2 _ _ (by simp; omega)
      · exact hfail
    · exact hkeep
  · show AnalyzesTo cfg (analyzeTcm cfg b sc)
    unfold analyzeTcm
    split
    · split
      · rw [memSlice_of_le _ (by omega)]
        simp only [ok_bind]
        exact acceptBytes_fits hc.2 _ _ (by simp; omega)
      · exact hfail
    · exact hkeep
  · show AnalyzesTo cfg (analyzeRevolt cfg b sc)
    unfold analyzeRevolt
    split
    · split
      · rw [memSlice_of_le _ (by omega), memRead_of_lt _ (by omega)]
        simp only [ok_bind]
        split
        · exact acceptBytes_fits hc.2 _ _ (by simp; omega)
        · exact hfail
      · exact hfail
    · exact hkeep
  · show AnalyzesTo cfg (analyzeEsa cfg b sc)
    unfold analyzeEsa
    split
    · have hb' := hl.2.2.2.2.1
      have hn : esaDataBytes cfg.esaBitLen + 3 = esaBits cfg.esaBitLen / 8 :=
          by cases cfg.esaBitLen <;> rfl
      rw [hst]
      simp only [ok_bind]
      have hrl : (esaCipher 0x89 (esaRaw cfg (streamOf b))).length = esaDataBytes cfg.esaBitLen +
          1 := by
        rw [esaCipher_length]; simp [esaRaw]
      obtain ⟨m', e, hw, hr⟩ := memFill_of_le (Memory.wf_nil cfg.maxmsg) 0
          (esaCipher 0x89 (esaRaw cfg (streamOf b))) (by omega)
      rw [e]
      simp only [ok_bind]
      have hso : ScratchFits cfg ⟨m', BitVec.ofNat 8 (esaDataBytes cfg.esaBitLen + 1), false⟩ :=
          ⟨hw, by simp; omega⟩
      split
      · refine analyzesTo_ok hso fun j hj => ?_
        simp at hj
        rw [hr, if_neg (by omega)]; rfl
      · exact analyzesTo_fail hso
    · exact hkeep
  · show AnalyzesTo cfg (analyzeFs20 cfg b)
    unfold analyzeFs20
    simp only [hst, ok_bind]
    obtain ⟨sc', r, e, hso, hpos⟩ := gx_fits (t := .fs20) hc (streamOf b) (by omega)
    rw [e]
    simp only [ok_bind]
    cases r
    · exact analyzesTo_fail hso
    · have hle := hso.2
      obtain ⟨h1, hz⟩ := hpos rfl
      simp only
      rw [memRead_of_lt _ (by omega), memSlice_of_le _ (by omega)]
      simp only [ok_bind]
      split
      · exact analyzesTo_ok hso hz
      · split
        · rw [memWrite_of_lt _ _ (by omega)]
          refine analyzesTo_ok ⟨Memory.write_wf hso.1 (by omega) _, hso.2⟩ fun j hj => ?_
          simp only at hj ⊢
          rw [Memory.read_write hso.1, if_neg (by omega)]
          exact hz j hj
        · split
          · exact analyzesTo_ok hso hz
          · exact analyzesTo_fail hso
  · show AnalyzesTo cfg (analyzeEm cfg b)
    unfold analyzeEm
    simp only [hst, ok_bind]
    obtain ⟨sc', r, e, hso, hpos⟩ := gx_fits (t := .em) hc (streamOf b) (by omega)
    rw [e]
    simp only [ok_bind]
    cases r
    · exact analyzesTo_fail hso
    · simp only
      split
      · exact analyzesTo_fail hso
      · rw [memRead_of_lt _ (by omega), memSlice_of_le _ (by omega)]
        simp only [ok_bind]
        split
        · exact analyzesTo_ok hso (hpos rfl).2
        · exact analyzesTo_fail hso
  · show AnalyzesTo cfg (analyzeHms cfg b sc)
    unfold analyzeHms
    split
    · simp only [hst, ok_bind]
      obtain ⟨o, x', p, e, hw, hr⟩ := hmsGroups_fits (cfg := cfg) (streamOf b) (List.range 6) [] 0
          (by simp; omega) (Memory.wf_nil _)
      rw [e]
      simp only [ok_bind]
      split
      · refine analyzesTo_ok ⟨hw, by simp; omega⟩ fun j hj => ?_
        simp at hj
        exact hr j (by simpa using hj)
      · exact analyzesTo_fail ⟨hw, by simp⟩
    · exact hkeep
  · show AnalyzesTo cfg (analyzeTx3 cfg b sc)
    unfold analyzeTx3
    split
    · simp only [hst, ok_bind]
      split
      · obtain ⟨m', e, hw, hr⟩ := memFill_of_le (Memory.wf_nil cfg.maxmsg) 0
            ((tx3Bytes (streamOf b)).take 1) (by simp [tx3Bytes]; omega)
        rw [e]; exact analyzesTo_fail ⟨hw, by simp⟩
      · obtain ⟨m', e, hw, hr⟩ := memFill_of_le (Memory.wf_nil cfg.maxmsg) 0 (tx3Bytes (streamOf b))
            (by simp [tx3Bytes]; omega)
        rw [e]
        simp only [ok_bind]
        split
        · refine analyzesTo_ok ⟨hw, by simp; omega⟩ fun j hj => ?_
          simp at hj
          rw [hr, if_neg (by simp [tx3Bytes]; omega)]; rfl
        · exact analyzesTo_fail ⟨hw, by simp⟩
    · exact hkeep
  · show AnalyzesTo cfg (analyzeKs300 cfg hh b)
    unfold analyzeKs300 extendedStream
    simp only [hst, ok_bind]
    obtain ⟨sc', r, e, hso, hpos⟩ := gx_fits (t := .ks300) hc (streamOf b ++ [projectedBit hh b])
        (by simp; omega)
    rw [e]
    simp only [ok_bind]
    cases r
    · exact analyzesTo_fail hso
    · simp only
      have : ∃ q, ks300Items cfg sc' = .ok q := by
        unfold ks300Items
        have := hso.2
        rw [memSlice_of_le _ (by omega)]
        simp only [ok_bind]
        cases hn : sc'.nibble
        · exact ⟨_, rfl⟩
        · rw [hn] at this
          simp at this
          rw [memRead_of_lt _ (by omega)]
          exact ⟨_, rfl⟩
      obtain ⟨q, eq⟩ := this
      rw [eq]; simp only [ok_bind]
      split
      · exact analyzesTo_fail hso
      · split
        · exact analyzesTo_ok hso (hpos rfl).2
        · exact analyzesTo_fail hso
  · show AnalyzesTo cfg (analyzeHoermann cfg hh b sc)
    unfold analyzeHoermann extendedStream
    split
    · simp only [hst, ok_bind]
      exact acceptBytes_fits hc.2 _ _ (by simp; omega)
    · exact hkeep

/-- The search through the analyzers never faults on a sound bucket. -/
theorem runAnalyzers_fits {cfg : Config} (hl : legalConfig cfg) (hh b) (hb : BucketOk cfg b)
    (l : List Analyzer) (sc) (hsc : ScratchFits cfg sc) : AnalyzesTo cfg (runAnalyzers cfg hh b l
    sc) := by
  induction l generalizing sc with
  | nil => exact analyzesTo_fail hsc
  | cons a l ih =>
    unfold runAnalyzers
    split
    · obtain ⟨r, e, hr⟩ := analyze_fits hl a hh b sc hb hsc
      rw [e]
      simp only [ok_bind]
      split
      · exact ⟨_, rfl, hr⟩
      · exact ih _ hr.1
    · exact ih _ hsc

end Sys2Proof.Machine
end

