-- ==== Sys2Proof/Laws/Demod.lean ====
section
/-! SUPPORT. What the bit write, the entry of a data state and the two edges' handlers can do. -/

namespace Sys2Proof.Machine

/-! ### The bit write -/

/-- A full bucket takes no bit (R180). -/
theorem pushBit_of_full {cfg : Config} {b : Bucket} (bit : Bool)
    (h : cfg.maxmsg ≤ b.byteIdx.toNat) : pushBit cfg b bit = .ok none := if_pos h

/-- Everything `pushBit` does to a bucket that is not full (R180). -/
theorem pushBit_of_lt {cfg : Config} {b : Bucket} (bit : Bool) (h : b.byteIdx.toNat < cfg.maxmsg) :
    pushBit cfg b bit = .ok (some (
      let data := if bit then Memory.write b.data b.byteIdx.toNat
        (Memory.read b.data b.byteIdx.toNat ||| (1#8 <<< b.bitIdx.val)) else b.data
      if b.bitIdx = 0 then
        { b with
          data := if (b.byteIdx + 1).toNat < cfg.maxmsg then
            Memory.write data (b.byteIdx + 1).toNat 0 else data
          byteIdx := b.byteIdx + 1, bitIdx := 7 }
      else { b with data := data, bitIdx := b.bitIdx - 1 })) := by
  have hl : ¬ cfg.maxmsg ≤ b.byteIdx.toNat := by omega
  unfold pushBit
  rw [if_neg hl]
  cases bit
  · simp only [Bool.false_eq_true, if_false, ok_bind]
    split
    · split
      · rw [memWrite_of_lt _ _ (by assumption)]; rfl
      · rfl
    · rfl
  · simp only [if_true, memRead_of_lt _ h, ok_bind, memWrite_of_lt _ _ h]
    split
    · split
      · rw [memWrite_of_lt _ _ (by assumption)]; rfl
      · rfl
    · rfl

/-- The machine's bit write is the bucket's, or the overrun's reset (R180). -/
theorem addBit_appends (b : Bucket) (bit : Bool) (upd : Bucket → Bucket) (s : State) :
    AppendsBit s b bit upd (complete (addBit b bit upd s)) := by
  constructor
  · intro h
    refine ⟨_, pushBit_of_lt bit h, ?_⟩
    simp only [addBit, pushBit_of_lt bit h, ok_bind, complete_ok]
    rfl
  · intro h
    simp only [addBit, pushBit_of_full bit h, ok_bind, complete_ok]
    rfl

/-- A bit write never faults. -/
theorem addBit_ok (b : Bucket) (bit : Bool) (upd : Bucket → Bucket) (s : State) :
    ∃ t, addBit b bit upd s = .ok t := by
  unfold addBit
  by_cases h : b.byteIdx.toNat < s.cfg.maxmsg
  · rw [pushBit_of_lt bit h]; exact ⟨_, rfl⟩
  · rw [pushBit_of_full bit (by omega)]; exact ⟨_, rfl⟩

/-- The two outcomes of a bit write that answered. -/
theorem addBit_cases {b : Bucket} {bit : Bool} {upd : Bucket → Bucket} {s t : State}
    (h : addBit b bit upd s = .ok t) :
    (∃ b', pushBit s.cfg b bit = .ok (some b') ∧ t = setProducer (upd b') s) ∨
    (pushBit s.cfg b bit = .ok none ∧ t = resetInput (raise (.dataOverrun s.inIdx) s)) := by
  obtain ⟨r, hr, ht⟩ := bind_eq_ok.1 h
  cases r with
  | none => exact .inr ⟨hr, by cases ht; rfl⟩
  | some b' => exact .inl ⟨b', hr, by cases ht; rfl⟩

/-! ### Entering a data state -/

theorem startData_of_pos {cfg : Config} (h : 0 < cfg.maxmsg) (st : BucketState) (b : Bucket) :
    startData cfg st b =
      .ok { b with state := st, byteIdx := 0, bitIdx := 7, data := Memory.write b.data 0 0 } := by
  simp only [startData, memWrite_of_lt _ _ h, ok_bind]

theorem startData_ok {cfg : Config} {st : BucketState} {b b' : Bucket}
    (h : startData cfg st b = .ok b') :
    b' = { b with state := st, byteIdx := 0, bitIdx := 7, data := Memory.write b.data 0 0 } := by
  obtain ⟨d, hd, hb⟩ := bind_eq_ok.1 h
  cases hb
  rw [(memWrite_ok.1 hd).2]

/-! ### The edges -/

/-- The falling edge outside the Manchester states (R112). -/
theorem fallHandler_generic {s : State} {b : Bucket} (h : isProducer s b) (h1 : b.state ≠ .hms)
    (h2 : b.state ≠ .esa) : fallHandler s = .ok { s with hightime := scale s.cfg s.tcnt } := by
  simp [fallHandler, manchesterFirst, producer_ok.2 h, h1, h2]

/-- The rising edge outside the Manchester states (R113). -/
theorem riseHandler_generic {s : State} {b : Bucket} (h : isProducer s b) (h1 : b.state ≠ .hms)
    (h2 : b.state ≠ .esa) : riseHandler s = riseGeneric (scale s.cfg s.tcnt) s := by
  simp [riseHandler, manchesterFirst, producer_ok.2 h, h1, h2]

/-- The generic path of a rising edge, with its producer bucket named (R113). -/
theorem riseGeneric_of_producer {s : State} {b : Bucket} (h : isProducer s b) :
    riseGeneric (scale s.cfg s.tcnt) s =
      if revoltPreamble (captured s).hightime (captured s).lowtime then .ok (enterRevolt (captured s))
      else dispatch b (captured s).hightime (captured s).lowtime (captured s) := by
  have hp : producer (captured s) = .ok b := producer_ok.2 h
  show (if _ then _ else producer (captured s) >>= _) = _
  simp only [hp, ok_bind]
  rfl

/-- The Manchester rule (R190), with the outcomes of its bit write. -/
theorem manchesterFirst_of_producer {s : State} {b : Bucket} (level : Bool) (c : Half)
    (h : isProducer s b) (hm : b.state = .hms ∨ b.state = .esa) :
    manchesterFirst level c s = manchesterEdge b level c s := by
  simp [manchesterFirst, producer_ok.2 h, hm]

theorem revoltPreamble_iff (h l : Half) : revoltPreamble h l = true ↔ isRevoltWave h l := by
  simp [revoltPreamble, isRevoltWave, and_assoc]

end Sys2Proof.Machine
end

