-- ==== Sys2Proof/Laws/Bits.lean ====
section
/-! SUPPORT. The bit write on a sound bucket: the stream it makes and what it keeps. -/

namespace Sys2Proof.Machine

/-- Setting one bit of a byte. -/
theorem getLsbD_or_bit (v : Byte) (k j : Nat) (hj : j < 8) : (v ||| (1#8 <<< k)).getLsbD j =
    (v.getLsbD j || decide (j = k)) := by
  simp [BitVec.getLsbD_shiftLeft, BitVec.getLsbD_one]
  by_cases h : j = k
  · subst h; simp [hj]
  · simp [h]; intros; omega

/-- The bit at the cursor is the next bit of the stream (R73, R214). -/
theorem bitCount_iff (b : Bucket) (k : Nat) : (k / 8 = b.byteIdx.toNat ∧ 7 - k % 8 = b.bitIdx.val) ↔
    k = b.bitCount := by
  have := b.bitIdx.isLt
  unfold Bucket.bitCount; omega

/-- The data of a bucket after a bit is put at the cursor (R180). -/
def bitWritten (b : Bucket) (bit : Bool) : Memory := if bit then Memory.write b.data b.byteIdx.toNat
        (Memory.read b.data b.byteIdx.toNat ||| (1#8 <<< b.bitIdx.val)) else b.data

/-- The stream positions after a bit is put at the cursor. -/
theorem bitWritten_bit {cfg : Config} {b : Bucket} (hw : Memory.wf cfg.maxmsg b.data)
    (hu : bucketBit b b.bitCount = false) (bit : Bool) (k : Nat) :
   (Memory.read (bitWritten b bit) (k/8)).getLsbD (7 - k % 8) = if k = b.bitCount then bit else
       bucketBit b k := by
  unfold bitWritten
  cases bit
  · simp only [Bool.false_eq_true, if_false]
    split
    · subst k; exact hu
    · rfl
  · simp only [if_true]
    rw [Memory.read_write hw]
    by_cases h8 : k / 8 = b.byteIdx.toNat
    · rw [if_pos h8, getLsbD_or_bit _ _ _ (by omega)]
      have := bitCount_iff b k
      by_cases hk : k = b.bitCount
      · rw [if_pos hk]; simp [(this.2 hk).2]
      · rw [if_neg hk];
        have : ¬ (7 - k % 8 = b.bitIdx.val) := fun hh => hk (this.1 ⟨h8, hh⟩)
        simp [this, bucketBit, h8]
    · rw [if_neg h8, if_neg (fun hk => h8 ((bitCount_iff b k).2 hk).1)]
      rfl

theorem bitWritten_wf {cfg : Config} {b : Bucket} (hw : Memory.wf cfg.maxmsg b.data)
    (h : b.byteIdx.toNat < cfg.maxmsg) (bit) : Memory.wf cfg.maxmsg (bitWritten b bit) := by
  unfold bitWritten; split
  · exact Memory.write_wf hw h _
  · exact hw

theorem eq_zero_of_bits (v : Byte) (h : ∀ j < 8, v.getLsbD (7 - j) = false) : v = 0 := by
  apply BitVec.eq_of_getLsbD_eq
  intro i hi
  have := h (7 - i) (by omega)
  rw [show 7 - (7 - i) = i by omega] at this
  simpa using this

/-- In a sound bucket the clearing of the next byte writes nothing: it is already 0 (R180). -/
theorem pushBit_of_bucketOk {cfg : Config} {b : Bucket} (hm : cfg.maxmsg ≤ 255) (hb : BucketOk cfg
    b) (bit : Bool) (h : b.byteIdx.toNat < cfg.maxmsg) :
    pushBit cfg b bit = .ok (some (
      if b.bitIdx = 0 then { b with byteIdx := b.byteIdx + 1, bitIdx := 7, data := bitWritten b bit }
      else { b with bitIdx := b.bitIdx - 1, data := bitWritten b bit })) := by
  have hu0 : bucketBit b b.bitCount = false := by
    apply hb.unwritten _ _ le_rfl
    have := b.bitIdx.isLt
    unfold Bucket.bitCount; omega
  have hbits := bitWritten_bit hb.dataWf hu0 bit
  have hwf := bitWritten_wf hb.dataWf h bit
  rw [pushBit_of_lt bit h]
  by_cases h0 : b.bitIdx = 0
  · have hnext : (b.byteIdx + 1).toNat = b.byteIdx.toNat + 1 := by
      simp; omega
    have hd : (if (b.byteIdx + 1).toNat < cfg.maxmsg then Memory.write (bitWritten b bit)
        (b.byteIdx + 1).toNat 0 else (bitWritten b bit)) = bitWritten b bit := by
      split
      · rename_i hl
        apply Memory.ext_of_wf (Memory.write_wf hwf hl 0) hwf
        intro i
        rw [Memory.read_write hwf]
        split
        · rename_i hi
          symm
          apply eq_zero_of_bits
          intro j hj
          have := hbits (8 * i + j)
          rw [show (8 * i + j) / 8 = i by omega, show (8 * i + j) % 8 = j by omega] at this
          rw [this]
          have h0' : b.bitIdx.val = 0 := by rw [h0]; rfl
          have hlt : b.bitCount < 8 * i + j := by unfold Bucket.bitCount; omega
          rw [if_neg (by omega)]
          exact hb.unwritten _ (by omega) (by omega)
        · rfl
      · rfl
    simp only [if_pos h0]
    unfold bitWritten at hd
    unfold bitWritten
    rw [hd]
  · simp only [if_neg h0]
    rfl

/-- Everything a bit write does to a sound bucket that is not full. -/
theorem pushBit_spec {cfg : Config} {b : Bucket} (hm : cfg.maxmsg ≤ 255) (hb : BucketOk cfg b)
    (bit : Bool) (h : b.byteIdx.toNat < cfg.maxmsg) :
    ∃ b', pushBit cfg b bit = .ok (some b') ∧
     b' = { b with byteIdx := b'.byteIdx, bitIdx := b'.bitIdx, data := b'.data } ∧
     b'.data = bitWritten b bit ∧ Memory.wf cfg.maxmsg b'.data ∧ b'.bitCount = b.bitCount + 1 ∧
     (b'.byteIdx.toNat < cfg.maxmsg ∨ (b'.byteIdx.toNat = cfg.maxmsg ∧ b'.bitIdx = 7)) ∧
     (∀ k, bucketBit b' k = if k = b.bitCount then bit else bucketBit b k) ∧ b.byteIdx.toNat ≤
         b'.byteIdx.toNat := by
  have hu0 : bucketBit b b.bitCount = false := by
    apply hb.unwritten _ _ le_rfl
    have := b.bitIdx.isLt
    unfold Bucket.bitCount; omega
  have hbits := bitWritten_bit hb.dataWf hu0 bit
  have hwf := bitWritten_wf hb.dataWf h bit
  refine ⟨_, pushBit_of_bucketOk hm hb bit h, ?_⟩
  by_cases h0 : b.bitIdx = 0
  · have hnext : (b.byteIdx + 1).toNat = b.byteIdx.toNat + 1 := by
      simp; omega
    rw [if_pos h0]
    refine ⟨rfl, rfl, hwf, ?_, ?_, hbits, ?_⟩
    · have h0' : b.bitIdx.val = 0 := by rw [h0]; rfl
      simp only [Bucket.bitCount, hnext]; simp; omega
    · simp only [hnext]; simp; omega
    · simp only [hnext]; omega
  · have hb0 : b.bitIdx.val ≠ 0 := fun hh => h0 (Fin.ext hh)
    have hlt := b.bitIdx.isLt
    have : (b.bitIdx - 1).val = b.bitIdx.val - 1 := by
      rw [Fin.sub_def]; simp; omega
    rw [if_neg h0]
    refine ⟨rfl, rfl, hwf, ?_, ?_, hbits, ?_⟩
    · simp only [Bucket.bitCount]; omega
    · exact .inl h
    · exact le_rfl

end Sys2Proof.Machine
end

