-- ==== Sys2Proof/Laws/Armed.lean ====
section
/-! SUPPORT. The producer bucket stays sound and the compare as its state asks, through every handler of
an edge; and no such handler faults. -/

namespace Sys2Proof.Machine

/-- The reset value of a bucket is sound. -/
theorem bucketOk_cleared (cfg : Config) (h : 0 < cfg.maxmsg) : BucketOk cfg Bucket.cleared where
  cursor := .inl (by simpa [Bucket.cleared] using h)
  dataWf := Memory.wf_nil _
  unwritten := by intro k _ _; simp [bucketBit, Bucket.cleared]
  resetCleared := fun _ => rfl
  syncEmpty := by simp [Bucket.cleared]
  notInit := by simp [Bucket.cleared]

/-- The reference waves and the sync count are free in a sound bucket out of RESET. -/
theorem bucketOk_update {cfg : Config} {b : Bucket} (h : BucketOk cfg b) (hr : b.state ≠ .reset)
    (z o sy) : BucketOk cfg { b with zero := z, one := o, sync := sy } where
  cursor := h.cursor
  dataWf := h.dataWf
  unwritten := h.unwritten
  resetCleared := fun hh => absurd hh hr
  syncEmpty := h.syncEmpty
  notInit := h.notInit

/-- A bit write keeps a bucket in a data state sound. -/
theorem bucketOk_pushBit {cfg : Config} {b b' : Bucket} {bit} (hm : cfg.maxmsg ≤ 255)
    (h : BucketOk cfg b) (hr : b.state ≠ .reset) (hs : b.state ≠ .sync) (hp : pushBit cfg b bit =
    .ok (some b')) : BucketOk cfg b' ∧ b'.state = b.state := by
  have hlt : b.byteIdx.toNat < cfg.maxmsg := by
    by_contra hc
    rw [pushBit_of_full bit (by omega)] at hp; cases hp
  obtain ⟨b2, h1, h2, h3, h4, h5, h6, h7, h8⟩ := pushBit_spec hm h bit hlt
  rw [hp] at h1; cases h1
  have hst : b'.state = b.state := by rw [h2]
  refine ⟨⟨h6, h4, ?_, ?_, ?_, ?_⟩, hst⟩
  · intro k hk hle
    rw [h7, if_neg (by omega)]
    exact h.unwritten k hk (by omega)
  · rw [hst]; intro hh; exact absurd hh hr
  · rw [hst]; intro hh; exact absurd hh hs
  · rw [hst]; exact h.notInit

/-- A bucket that holds no bit is sound when it enters a data state. -/
theorem bucketOk_startData {cfg : Config} {b : Bucket} (hm : 0 < cfg.maxmsg) (h : BucketOk cfg b)
    (h0 : b.bitCount = 0) (st : BucketState) (z o) (sy : Byte) (hs : st ≠ .reset ∧ st ≠ .init) :
    BucketOk cfg { b with
      state := st, zero := z, one := o, sync := sy, byteIdx := 0, bitIdx := 7
      data := Memory.write b.data 0 0 } where
  cursor := .inl (by simpa using hm)
  dataWf := Memory.write_wf h.dataWf hm 0
  unwritten := by
    intro k hk _
    simp only [bucketBit]
    rw [Memory.read_write h.dataWf]
    split
    · simp
    · exact h.unwritten k hk (by omega)
  resetCleared := fun hh => absurd hh hs.1
  syncEmpty := fun _ => by simp [Bucket.bitCount]
  notInit := hs.2

/-- A sound producer bucket with the compare as its state asks (R323, R354). -/
def BucketArmed (cfg : Config) (b : Bucket) (ocie : Bool) (ocr : Half) : Prop := BucketOk cfg b ∧
    (ocie = true ↔ b.state ≠ .reset) ∧ (b.state ≠ .reset → ocr = silenceOf b.state)

/-- The update leaves a sound, rightly armed producer bucket. -/
def LeavesArmed (s t : State) : Prop := ∃ b', t.buckets = s.buckets.set s.inIdx.toNat b' ∧
    BucketArmed s.cfg b' t.ocie t.ocr

/-- What the Manchester rule leaves of a sound producer bucket. -/
inductive ManchesterLeaves (s : State) : Except Fault EdgeResult → Prop
  | cons (t) (h : LeavesArmed s t) (hh : t.hightime = s.hightime ∧ t.lowtime = s.lowtime) :
      ManchesterLeaves s (.ok (.consumed t))
  | pass : ManchesterLeaves s (.ok (.fallthrough s))
  | long : ManchesterLeaves s (.ok (.fallthrough (resetInput (raise (.pulseTooLong s.inIdx) s))))

section
variable {s t : State} (hc : 0 < s.cfg.maxmsg ∧ s.cfg.maxmsg ≤ 255)
include hc

theorem leavesArmed_resetInput_raise (n) : LeavesArmed s (resetInput (raise n s)) :=
    ⟨_, rfl, bucketOk_cleared _ hc.1,
    by simp [setProducer, resetInput, Bucket.cleared], by simp [Bucket.cleared]⟩

theorem leavesArmed_resetInput : LeavesArmed s (resetInput s) := ⟨_, rfl, bucketOk_cleared _ hc.1,
    by simp [setProducer, resetInput, Bucket.cleared], by simp [Bucket.cleared]⟩

theorem leavesArmed_routerHandoff (b) : LeavesArmed s (routerHandoff b s) :=
    ⟨_, rfl, bucketOk_cleared _ hc.1,
    by simp [routerHandoff, hook, setProducer, resetInput, Bucket.cleared], by simp [Bucket.cleared]⟩

omit hc in
theorem leavesArmed_refl {b} (hp : isProducer s b) (h : BucketArmed s.cfg b s.ocie s.ocr) :
    LeavesArmed s s :=
  ⟨b, by obtain ⟨hl, he⟩ := List.getElem?_eq_some_iff.1 hp; rw [← he]; simp, h⟩

theorem leavesArmed_addBit {b bit upd} (h : BucketArmed s.cfg b s.ocie s.ocr)
    (hr : b.state ≠ .reset) (hs : b.state ≠ .sync) (hu : ∀ b, ∃ z o sy, upd b =
    {b with zero := z, one := o, sync := sy}) (hd : addBit b bit upd s = .ok t) : LeavesArmed s
    t := by
  rcases addBit_cases hd with ⟨b', h1, rfl⟩ | ⟨-, rfl⟩
  · obtain ⟨k1, k2⟩ := bucketOk_pushBit hc.2 h.1 hr hs h1
    obtain ⟨z, o, sy, e⟩ := hu b'
    refine ⟨_, rfl, ?_⟩
    rw [e]
    refine ⟨bucketOk_update k1 (by rw [k2]; exact hr) _ _ _, ?_, ?_⟩
    · show s.ocie = true ↔ b'.state ≠ .reset
      rw [k2]; exact h.2.1
    · show b'.state ≠ .reset → s.ocr = silenceOf b'.state
      rw [k2]; exact h.2.2
  · exact leavesArmed_resetInput_raise hc _

theorem leavesArmed_startData {b b' st v} (h : BucketOk s.cfg b) (h0 : b.bitCount = 0)
    (hs : st ≠ .reset ∧ st ≠ .init) (hv : v = silenceOf st) (z o sy) (hd : startData s.cfg st
    {b with zero := z, one := o, sync := sy} = .ok b') : LeavesArmed s (arm v (setProducer b' s)) :=
    by
  rw [startData_ok hd]
  refine ⟨_, rfl, bucketOk_startData hc.1 h h0 st z o sy hs, ?_, ?_⟩
  · simp [arm, hs.1]
  · intro _; exact hv

theorem leavesArmed_syncDetect {b h l} (hd : syncDetect b h l s = .ok t) (hp : isProducer s b)
    (hb : BucketArmed s.cfg b s.ocie s.ocr) (hst : b.state = .reset) : LeavesArmed s t := by
  have h0 : b.bitCount = 0 := by rw [hb.1.resetCleared hst]; rfl
  unfold Machine.syncDetect at hd
  split at hd
  · obtain ⟨b', h1, e⟩ := bind_eq_ok.1 hd; cases e
    exact leavesArmed_startData hc hb.1 h0 (by decide) rfl b.zero b.one b.sync h1
  · split at hd
    · obtain ⟨b', h1, e⟩ := bind_eq_ok.1 hd; cases e
      exact leavesArmed_startData hc hb.1 h0 (by decide) rfl b.zero b.one b.sync h1
    · split at hd
      · cases hd; exact leavesArmed_refl hp hb
      · cases hd
        refine ⟨_, rfl, ⟨hb.1.cursor, hb.1.dataWf, hb.1.unwritten, by simp, fun _ => h0, by simp⟩,
            by simp [arm], fun _ => rfl⟩

theorem leavesArmed_lockOn {b h l st v} (hd : lockOn st v b h l s = .ok t) (hb : BucketOk s.cfg b)
    (h0 : b.bitCount = 0) (hs : st ≠ .reset ∧ st ≠ .init) (hv : v = silenceOf st) : LeavesArmed s
    t := by
  obtain ⟨b', h1, e⟩ := bind_eq_ok.1 hd; cases e
  exact leavesArmed_startData hc hb h0 hs hv b.zero ⟨h, l⟩ b.sync h1

omit hc in
theorem leavesArmed_of_setProducer {b} (h : LeavesArmed (setProducer b s) t) : LeavesArmed s t := by
  obtain ⟨b', h1, h2⟩ := h
  exact ⟨b', by rw [h1]; simp [setProducer], h2⟩

omit hc in
theorem leavesArmed_of_resetInput (h : LeavesArmed (resetInput s) t) : LeavesArmed s t := by
  obtain ⟨b', h1, h2⟩ := h
  exact ⟨b', by rw [h1]; simp [setProducer, resetInput], h2⟩

theorem leavesArmed_syncStep {b h l} (hd : syncStep b h l s = .ok t) (hp : isProducer s b)
    (hb : BucketArmed s.cfg b s.ocie s.ocr) (hst : b.state = .sync) : LeavesArmed s t := by
  have h0 := hb.1.syncEmpty hst
  unfold Machine.syncStep at hd
  split at hd
  · cases hd; exact ⟨_, rfl, bucketOk_update hb.1 (by simp [hst]) (makeAvg b.zero h l) b.one
        (b.sync + 1), hb.2.1, hb.2.2⟩
  · split at hd
    · unfold classify at hd
      dsimp only at hd
      split at hd
      · exact leavesArmed_lockOn hc hd hb.1 h0 (by decide) rfl
      · split at hd
        · exact leavesArmed_lockOn hc hd hb.1 h0 (by decide) rfl
        · split at hd
          · cases hd; exact leavesArmed_routerHandoff hc _
          · exact leavesArmed_lockOn hc hd hb.1 h0 (by decide) rfl
    · apply leavesArmed_of_resetInput
      exact leavesArmed_syncDetect (s := resetInput s) hc hd (isProducer_setProducer
          (b' := Bucket.cleared) hp : isProducer (resetInput s) _) ⟨bucketOk_cleared _ hc.1,
          by simp [resetInput, Bucket.cleared], by simp [Bucket.cleared]⟩ rfl

theorem leavesArmed_itCompare {b h l} (hd : itCompare b h l s = .ok t) (hp : isProducer s b)
    (hb : BucketArmed s.cfg b s.ocie s.ocr) (hst : b.state = .it) : LeavesArmed s t := by
  unfold Machine.itCompare at hd
  split at hd
  · exact leavesArmed_addBit hc hb (by simp [hst]) (by simp [hst]) (fun b => ⟨b.zero, _, b.sync,
        rfl⟩) hd
  · split at hd
    · exact leavesArmed_addBit hc hb (by simp [hst]) (by simp [hst])
          (fun b => ⟨_, b.one, b.sync, rfl⟩) hd
    · cases hd; exact leavesArmed_refl hp hb

theorem leavesArmed_enterItv3 {b} (hd : enterItv3 b s = .ok t) (hb : BucketOk s.cfg b)
    (h0 : b.bitCount = 0) : LeavesArmed s t := by
  obtain ⟨b', h1, e⟩ := bind_eq_ok.1 hd; cases e
  exact leavesArmed_startData hc hb h0 (by decide) rfl b.zero b.one b.sync h1

theorem leavesArmed_dispatch {b h l} (hd : dispatch b h l s = .ok t) (hp : isProducer s b)
    (hb : BucketArmed s.cfg b s.ocie s.ocr) : LeavesArmed s t := by
  have hn0 : holdsNoBit b = true → b.bitCount = 0 := by
    intro h; simp [holdsNoBit] at h; simp [Bucket.bitCount, h.1, h.2]
  have hrefs : ∀ h l, ∃ z o, initialRefs b h l = { b with zero := z, one := o } := by
    intro h l; unfold initialRefs
    split <;> split <;> exact ⟨_, _, rfl⟩
  unfold Machine.dispatch at hd
  split at hd <;> rename_i hst
  · exact leavesArmed_syncDetect hc hd hp hb hst
  · cases hd; exact leavesArmed_refl hp hb
  · exact leavesArmed_syncStep hc hd hp hb hst
  · unfold collectStep at hd
    split at hd
    · exact leavesArmed_addBit hc hb (by simp [hst]) (by simp [hst]) (fun b => ⟨b.zero, _, b.sync,
          rfl⟩) hd
    · split at hd
      · exact leavesArmed_addBit hc hb (by simp [hst]) (by simp [hst])
            (fun b => ⟨_, b.one, b.sync, rfl⟩) hd
      · cases hd; exact leavesArmed_resetInput_raise hc _
  · cases hd; exact leavesArmed_refl hp hb
  · cases hd; exact leavesArmed_refl hp hb
  · unfold revoltStep at hd
    split at hd
    · exact leavesArmed_addBit hc hb (by simp [hst]) (by simp [hst])
          (fun b => ⟨_, b.one, b.sync, rfl⟩) hd
    · exact leavesArmed_addBit hc hb (by simp [hst]) (by simp [hst]) (fun b => ⟨b.zero, _, b.sync,
          rfl⟩) hd
  · unfold itStep at hd
    split at hd
    · rename_i hn
      split at hd
      · exact leavesArmed_enterItv3 hc hd hb.1 (hn0 hn)
      · obtain ⟨z, o, e⟩ := hrefs h l
        rw [e] at hd
        apply leavesArmed_of_setProducer
        exact leavesArmed_itCompare (s := setProducer _ s) hc hd (isProducer_setProducer hp)
            ⟨bucketOk_update hb.1 (by simp [hst]) z o b.sync, hb.2⟩ hst
    · exact leavesArmed_itCompare hc hd hp hb hst
  · unfold tcmStep at hd
    split at hd
    · exact leavesArmed_addBit hc hb (by simp [hst]) (by simp [hst])
          (fun b => ⟨b.zero, b.one, b.sync, rfl⟩) hd
    · split at hd
      · exact leavesArmed_addBit hc hb (by simp [hst]) (by simp [hst])
            (fun b => ⟨b.zero, b.one, b.sync, rfl⟩) hd
      · cases hd; exact leavesArmed_refl hp hb
  · unfold itv3Step at hd
    split at hd
    · rename_i hn
      split at hd
      · exact leavesArmed_enterItv3 hc hd hb.1 (hn0 hn)
      · obtain ⟨z, o, e⟩ := hrefs h l
        rw [e] at hd
        apply leavesArmed_of_setProducer
        exact leavesArmed_addBit (s := setProducer _ s) (b := { b with zero := z, one := o }) hc
            ⟨bucketOk_update hb.1 (by simp [hst]) z o b.sync, hb.2⟩ (by simp [hst]) (by simp [hst])
            (fun b => ⟨b.zero, b.one, b.sync, rfl⟩) hd
    · exact leavesArmed_addBit hc hb (by simp [hst]) (by simp [hst])
          (fun b => ⟨b.zero, b.one, b.sync, rfl⟩) hd

theorem leavesArmed_riseGeneric {b} (hd : riseGeneric (scale s.cfg s.tcnt) s = .ok t)
    (hp : isProducer s b) (hb : BucketArmed s.cfg b s.ocie s.ocr) : LeavesArmed s t := by
  rw [riseGeneric_of_producer hp] at hd
  split at hd
  · cases hd
    refine ⟨_, rfl, ⟨.inl (by simpa [Bucket.cleared] using hc.1), Memory.wf_nil _,
        by intro k _ _; simp [bucketBit, Bucket.cleared], by simp, by simp, by simp⟩,
        by simp [enterRevolt, arm], fun _ => rfl⟩
  · exact leavesArmed_dispatch (s := captured s) hc hd hp hb

theorem manchesterFirst_leaves {b} (hp : isProducer s b) (hb : BucketArmed s.cfg b s.ocie s.ocr)
    (level : Bool) (c : Half) : ManchesterLeaves s (manchesterFirst level c s) := by
  by_cases hm : b.state = .hms ∨ b.state = .esa
  · rw [manchesterFirst_of_producer _ _ hp hm]
    unfold manchesterEdge
    split
    · exact .cons _ (leavesArmed_refl hp hb) ⟨rfl, rfl⟩
    · split
      · exact .long
      · obtain ⟨t, ht⟩ := addBit_ok b (!level) id s
        simp only [ht, ok_bind]
        obtain ⟨b', h1, h2⟩ := leavesArmed_addBit hc hb (by rcases hm with h | h <;> simp [h])
            (by rcases hm with h | h <;> simp [h]) (fun b => ⟨b.zero, b.one, b.sync, rfl⟩) ht
        refine .cons _ ⟨b', h1, h2⟩ ?_
        rcases addBit_cases ht with ⟨b', -, rfl⟩ | ⟨-, rfl⟩ <;> exact ⟨rfl, rfl⟩
  · have : manchesterFirst level c s = .ok (.fallthrough s) := by
      simp only [not_or] at hm
      simp [manchesterFirst, producer_ok.2 hp, hm.1, hm.2]
    rw [this]
    exact .pass

/-- A dispatched edge never faults. -/
theorem dispatch_total {b h l} : ∃ t, dispatch b h l s = .ok t := by
  have hs : ∀ st b, ∃ b', startData s.cfg st b = .ok b' := fun st b => ⟨_, startData_of_pos hc.1 st
      b⟩
  have hsd : ∀ (s' : State) b, s'.cfg = s.cfg → ∃ t, syncDetect b h l s' = .ok t := by
    intro s' b e
    unfold Machine.syncDetect
    simp only [startData_of_pos (cfg := s'.cfg) (by rw [e]; exact hc.1), ok_bind]
    split
    · exact ⟨_, rfl⟩
    · split
      · exact ⟨_, rfl⟩
      · split <;> exact ⟨_, rfl⟩
  unfold Machine.dispatch
  split
  · exact hsd s b rfl
  · exact ⟨_, rfl⟩
  · unfold Machine.syncStep
    split
    · exact ⟨_, rfl⟩
    · split
      · unfold classify Machine.lockOn
        simp only [startData_of_pos (cfg := s.cfg) hc.1, ok_bind]
        split
        · exact ⟨_, rfl⟩
        · split
          · exact ⟨_, rfl⟩
          · split <;> exact ⟨_, rfl⟩
      · exact hsd _ _ rfl
  · unfold collectStep
    split
    · exact addBit_ok _ _ _ _
    · split
      · exact addBit_ok _ _ _ _
      · exact ⟨_, rfl⟩
  · exact ⟨_, rfl⟩
  · exact ⟨_, rfl⟩
  · unfold revoltStep; split <;> exact addBit_ok _ _ _ _
  · unfold itStep Machine.itCompare Machine.enterItv3
    simp only [startData_of_pos (cfg := s.cfg) hc.1, ok_bind]
    repeat' split
    all_goals first | exact addBit_ok _ _ _ _ | exact ⟨_, rfl⟩
  · unfold tcmStep
    repeat' split
    all_goals first | exact addBit_ok _ _ _ _ | exact ⟨_, rfl⟩
  · unfold itv3Step Machine.enterItv3
    simp only [startData_of_pos (cfg := s.cfg) hc.1, ok_bind]
    repeat' split
    all_goals first | exact addBit_ok _ _ _ _ | exact ⟨_, rfl⟩
end

end Sys2Proof.Machine
end

