-- ==== Sys2Proof/Laws/Classifier.lean ====
section
/-! SUPPORT. What the classifier answers: each analyzer accepts or rejects a bucket whatever scratch it
finds, and the search through them stops at the first enabled one that accepts. -/

namespace Sys2Proof.Machine

/-- The terms of the statements agree with the model's computation of them. -/
theorem parity_eq_oddOnes (v : Byte) : parity v = oddOnes v := by decide +revert

theorem xorBytes_eq_xorAll (bytes : List Byte) : xorBytes bytes = xorAll bytes := rfl

theorem nibbleXor_eq_xorAll (q : List (BitVec 4)) : nibbleXor q = xorAll q := rfl

/-- The table of the statements is the model's order and dispatch. -/
theorem analyzerTable_eq (cfg : Config) (hightime : Half) (b : Bucket) :
    analyzerTable cfg hightime b = analyzerOrder.map fun a => (a, analyze a cfg hightime b) := rfl

/-- Two results of one analyzer on two scratches: the same, or both a FAIL. -/
inductive SameVerdict : Except Fault Analysis → Except Fault Analysis → Prop
  | same (r) : SameVerdict r r
  | fail (sc₁ sc₂) : SameVerdict (.ok ⟨sc₁, none⟩) (.ok ⟨sc₂, none⟩)

/-- An analyzer's answer does not depend on the scratch it finds (R235). -/
theorem analyze_sameVerdict (a : Analyzer) (cfg : Config) (hh b sc₁ sc₂) :
    SameVerdict (analyze a cfg hh b sc₁) (analyze a cfg hh b sc₂) := by
  cases a <;> simp only [analyze, analyzeIt, analyzeTcm, analyzeRevolt, analyzeEsa, analyzeHms,
    analyzeTx3, analyzeHoermann]
  case fs20 => exact .same _
  case em => exact .same _
  case ks300 => exact .same _
  all_goals
    split
    · exact .same _
    · exact .fail _ _

/-- On a sound bucket every analyzer accepts with one frame, 0 beyond its items (R264), or rejects. -/
theorem analyze_accepts_or_rejects {cfg : Config} (hl : legalConfig cfg) (a : Analyzer) (hh b)
    (hb : BucketOk cfg b) :
    (∃ dt out, Accepts (analyze a cfg hh b) dt out ∧ ScratchFits cfg out ∧ ZeroBeyondItems out) ∨
      Rejects (analyze a cfg hh b) := by
  obtain ⟨⟨out, v⟩, e, hf, hz⟩ := analyze_fits hl a hh b _ hb (clearedScratch_fits cfg)
  cases v with
  | some dt =>
    refine .inl ⟨dt, out, fun sc => ?_, hf, hz (by simp)⟩
    have h := analyze_sameVerdict a cfg hh b sc clearedScratch
    rw [e] at h
    generalize analyze a cfg hh b sc = r at h
    cases h
    rfl
  | none =>
    refine .inr fun sc => ?_
    have h := analyze_sameVerdict a cfg hh b sc clearedScratch
    rw [e] at h
    generalize analyze a cfg hh b sc = r at h
    cases h with
    | same => exact ⟨_, rfl⟩
    | fail sc₁ => exact ⟨sc₁, rfl⟩

/-- What the search answers (R210, R212): the first enabled analyzer that accepts, or none. -/
theorem runAnalyzers_cases {cfg : Config} (hl : legalConfig cfg) (hh b) (hb : BucketOk cfg b)
    (l : List Analyzer) (sc : Scratch) :
    ∃ r, runAnalyzers cfg hh b l sc = .ok r ∧
      ((r.verdict = none ∧ ∀ a ∈ l, a ∈ cfg.enabled → Rejects (analyze a cfg hh b)) ∨
        ∃ before a after dt, l = before ++ a :: after ∧
          (∀ x ∈ before, x ∈ cfg.enabled → Rejects (analyze x cfg hh b)) ∧
          a ∈ cfg.enabled ∧ Accepts (analyze a cfg hh b) dt r.scratch ∧ r.verdict = some dt ∧
          ZeroBeyondItems r.scratch) := by
  induction l generalizing sc with
  | nil => exact ⟨_, rfl, .inl ⟨rfl, by simp⟩⟩
  | cons a l ih =>
    have skip (sc' : Scratch) (hr : a ∈ cfg.enabled → Rejects (analyze a cfg hh b)) (sc : Scratch)
        (e : runAnalyzers cfg hh b (a :: l) sc' = runAnalyzers cfg hh b l sc) :
        ∃ r, runAnalyzers cfg hh b (a :: l) sc' = .ok r ∧
          ((r.verdict = none ∧ ∀ x ∈ a :: l, x ∈ cfg.enabled → Rejects (analyze x cfg hh b)) ∨
            ∃ before x after dt, a :: l = before ++ x :: after ∧
              (∀ y ∈ before, y ∈ cfg.enabled → Rejects (analyze y cfg hh b)) ∧
              x ∈ cfg.enabled ∧ Accepts (analyze x cfg hh b) dt r.scratch ∧ r.verdict = some dt ∧
              ZeroBeyondItems r.scratch) := by
      obtain ⟨r, h1, h2⟩ := ih sc
      refine ⟨r, e.trans h1, ?_⟩
      rcases h2 with ⟨h3, h4⟩ | ⟨before, x, after, dt, rfl, h4, h5⟩
      · exact .inl ⟨h3, List.forall_mem_cons.2 ⟨hr, h4⟩⟩
      · exact .inr ⟨a :: before, x, after, dt, rfl, List.forall_mem_cons.2 ⟨hr, h4⟩, h5⟩
    by_cases hen : a ∈ cfg.enabled
    · rcases analyze_accepts_or_rejects hl a hh b hb with ⟨dt, out, ha, -, hz⟩ | hr
      · refine ⟨⟨out, some dt⟩, ?_, .inr ⟨[], a, l, dt, rfl, by simp, hen, ha, rfl, hz⟩⟩
        simp only [runAnalyzers, if_pos hen, ha sc, ok_bind]
      · obtain ⟨out, e⟩ := hr sc
        apply skip _ (fun _ => hr) out
        simp only [runAnalyzers, if_pos hen, e, ok_bind]
    · apply skip _ (fun h => absurd h hen) sc
      simp only [runAnalyzers, if_neg hen]

end Sys2Proof.Machine
end

