-- ==== Sys2Proof/Laws/Decode.lean ====
section
/-! SUPPORT. What the parts of the decoder can answer. -/

namespace Sys2Proof

/-- The opcode table (R91) read backwards. -/
theorem opcodeOfByte_eq_some (b : Byte) (op : Opcode) :
    opcodeOfByte b = some op ↔ b = op.toByte := by
  have all : ∀ b : Byte, ∀ op ∈ [Opcode.edgeFall, .edgeRise, .silenceTimeout, .taskPoll, .configure,
      .rxReset, .tickUs, .ticksAdv, .setRssi, .hwReset],
      opcodeOfByte b = some op ↔ b = op.toByte := by decide
  exact all b op (by cases op <;> simp)

/-- A word is its three fields (R90). -/
theorem word_eq_fields (w : Word) (op rsv : Byte) (imm : Half) :
    w = op ++ rsv ++ imm ↔ fieldOp w = op ∧ fieldRsv w = rsv ∧ fieldImm w = imm := by
  constructor
  · rintro rfl
    refine ⟨?_, ?_, ?_⟩ <;>
      (simp only [fieldOp, fieldRsv, fieldImm]; ext i hi; simp; grind)
  · rintro ⟨rfl, rfl, rfl⟩
    simp only [fieldOp, fieldRsv, fieldImm]; ext i hi; simp; grind

/-- When decoding answers an event (R94). -/
theorem decode_eq_ok (w : Word) (i : Instr) :
    decode w = .ok i ↔ ∃ op, fieldOp w = op.toByte ∧ fieldRsv w = 0 ∧
      operandOk op (fieldImm w) = true ∧ eventOf op (fieldImm w) = i := by
  unfold decode
  cases h : opcodeOfByte (fieldOp w) with
  | none =>
    simp only [reduceCtorEq, false_iff, not_exists]
    rintro op ⟨h', -⟩
    rw [← opcodeOfByte_eq_some, h] at h'
    cases h'
  | some op =>
    have hop := (opcodeOfByte_eq_some _ _).1 h
    simp only
    constructor
    · intro h
      by_cases h0 : fieldRsv w = 0
      · rw [if_neg (by simp [h0])] at h
        split at h
        · exact ⟨op, hop, h0, by assumption, by simpa using h⟩
        · cases h
      · rw [if_pos h0] at h; cases h
    · rintro ⟨op', h1, h2, h3, h4⟩
      have he : op' = op := by
        have := (opcodeOfByte_eq_some _ _).2 h1
        rw [h] at this
        exact (Option.some.inj this).symm
      subst he
      simp [h2, h3, h4]

end Sys2Proof
end

