-- ==== Sys2Proof/Laws/Edge.lean ====
section
/-! SUPPORT. What an edge can write, said once for every handler on its way, and the cases of the
silence handler and of TICK_US. -/

namespace Sys2Proof.Machine

/-- What an edge leaves unchanged, from every state: it replaces at most the producer bucket and writes
at most the timer unit, the capture registers, `isNotRep` (cleared), one notice and the hand-offs. -/
structure EdgeFrame (s t : State) : Prop where
  bk : ∃ b', t.buckets = s.buckets.set s.inIdx.toNat b'
  rest : t = { s with
    tcnt := t.tcnt, ocr := t.ocr, ocie := t.ocie, hightime := t.hightime, lowtime := t.lowtime
    buckets := t.buckets, isNotRep := t.isNotRep, calls := t.calls, notices := t.notices }
  nr : t.isNotRep = s.isNotRep ∨ t.isNotRep = false
  nt : t.notices = s.notices ∨ ∃ n, t.notices = s.notices ++ [n]
  cl : ∃ c, t.calls = s.calls ++ c

theorem edgeFrame_refl {s : State} {b} (h : isProducer s b) : EdgeFrame s s :=
  ⟨⟨b, by obtain ⟨hl, he⟩ := List.getElem?_eq_some_iff.1 h; rw [← he]; simp⟩, rfl, .inl rfl,
      .inl rfl, ⟨[], by simp⟩⟩

theorem edgeFrame_setProducer (s : State) (b) : EdgeFrame s (setProducer b s) :=
    ⟨⟨b, rfl⟩, rfl, .inl rfl, .inl rfl, ⟨[], by simp⟩⟩

theorem edgeFrame_arm_setProducer (s : State) (v b) : EdgeFrame s (arm v (setProducer b s)) :=
    ⟨⟨b, rfl⟩, rfl, .inl rfl, .inl rfl, ⟨[], by simp⟩⟩

theorem edgeFrame_resetInput (s : State) : EdgeFrame s (resetInput s) := ⟨⟨_, rfl⟩, rfl, .inr rfl,
    .inl rfl, ⟨[], by simp⟩⟩

theorem edgeFrame_resetInput_raise (s : State) (n) : EdgeFrame s (resetInput (raise n s)) :=
    ⟨⟨_, rfl⟩, rfl, .inr rfl, .inr ⟨n, rfl⟩, ⟨[], by simp⟩⟩

theorem edgeFrame_routerHandoff (s : State) (b) : EdgeFrame s (routerHandoff b s) :=
    ⟨⟨_, rfl⟩, rfl, .inr rfl, .inl rfl, ⟨[_], rfl⟩⟩

theorem addBit_frame {b bit upd} {s t : State} (h : addBit b bit upd s = .ok t) : EdgeFrame s t :=
    by
  rcases addBit_cases h with ⟨b', -, rfl⟩ | ⟨-, rfl⟩
  · exact edgeFrame_setProducer _ _
  · exact edgeFrame_resetInput_raise _ _

theorem edgeFrame_of_setProducer {s t : State} {b} (h : EdgeFrame (setProducer b s) t) : EdgeFrame s
    t := by
  obtain ⟨⟨b', h1⟩, h2, h3, h4, h5⟩ := h
  exact ⟨⟨b', by rw [h1]; simp [setProducer]⟩, by rw [h2]; rfl, h3, h4, h5⟩

theorem edgeFrame_of_resetInput {s t : State} (h : EdgeFrame (resetInput s) t) : EdgeFrame s t := by
  obtain ⟨⟨b', h1⟩, h2, h3, h4, h5⟩ := h
  exact ⟨⟨b', by rw [h1]; simp [setProducer, resetInput]⟩,
      by rw [h2]; rfl, by rcases h3 with h3 | h3 <;> exact .inr h3, h4, h5⟩

theorem syncDetect_frame {b h l} {s t : State} {p} (hp : isProducer s p) (hd : syncDetect b h l s =
    .ok t) : EdgeFrame s t := by
  unfold syncDetect at hd
  split at hd
  · obtain ⟨b', -, e⟩ := bind_eq_ok.1 hd; cases e; exact edgeFrame_arm_setProducer _ _ _
  · split at hd
    · obtain ⟨b', -, e⟩ := bind_eq_ok.1 hd; cases e; exact edgeFrame_arm_setProducer _ _ _
    · split at hd
      · cases hd; exact edgeFrame_refl hp
      · cases hd; exact edgeFrame_arm_setProducer _ _ _

theorem lockOn_frame {st v b h l} {s t : State} (hd : lockOn st v b h l s = .ok t) : EdgeFrame s
    t := by
  obtain ⟨b', -, e⟩ := bind_eq_ok.1 hd; cases e; exact edgeFrame_arm_setProducer _ _ _

theorem classify_frame {b h l} {s t : State} (hd : classify b h l s = .ok t) : EdgeFrame s t := by
  unfold classify at hd
  dsimp only at hd
  split at hd
  · exact lockOn_frame hd
  · split at hd
    · exact lockOn_frame hd
    · split at hd
      · cases hd; exact edgeFrame_routerHandoff _ _
      · exact lockOn_frame hd

theorem syncStep_frame {b h l} {s t : State} {p} (hp : isProducer s p) (hd : syncStep b h l s = .ok
    t) : EdgeFrame s t := by
  unfold syncStep at hd
  split at hd
  · cases hd; exact edgeFrame_setProducer _ _
  · split at hd
    · exact classify_frame hd
    · exact edgeFrame_of_resetInput (syncDetect_frame (isProducer_setProducer (b' := Bucket.cleared)
          hp : isProducer (resetInput s) _) hd)

theorem itCompare_frame {b h l} {s t : State} {p} (hp : isProducer s p) (hd : itCompare b h l s =
    .ok t) : EdgeFrame s t := by
  unfold itCompare at hd
  split at hd
  · exact addBit_frame hd
  · split at hd
    · exact addBit_frame hd
    · cases hd; exact edgeFrame_refl hp

theorem enterItv3_frame {b} {s t : State} (hd : enterItv3 b s = .ok t) : EdgeFrame s t := by
  obtain ⟨b', -, e⟩ := bind_eq_ok.1 hd; cases e; exact edgeFrame_arm_setProducer _ _ _

theorem dispatch_frame {b h l} {s t : State} {p} (hp : isProducer s p) (hd : dispatch b h l s = .ok
    t) : EdgeFrame s t := by
  unfold dispatch at hd
  split at hd
  · exact syncDetect_frame hp hd
  · cases hd; exact edgeFrame_refl hp
  · exact syncStep_frame hp hd
  · unfold collectStep at hd
    split at hd
    · exact addBit_frame hd
    · split at hd
      · exact addBit_frame hd
      · cases hd; exact edgeFrame_resetInput_raise _ _
  · cases hd; exact edgeFrame_refl hp
  · cases hd; exact edgeFrame_refl hp
  · unfold revoltStep at hd
    split at hd <;> exact addBit_frame hd
  · unfold itStep at hd
    split at hd
    · split at hd
      · exact enterItv3_frame hd
      · exact edgeFrame_of_setProducer (itCompare_frame (isProducer_setProducer hp) hd)
    · exact itCompare_frame hp hd
  · unfold tcmStep at hd
    split at hd
    · exact addBit_frame hd
    · split at hd
      · exact addBit_frame hd
      · cases hd; exact edgeFrame_refl hp
  · unfold itv3Step at hd
    split at hd
    · split at hd
      · exact enterItv3_frame hd
      · exact edgeFrame_of_setProducer (addBit_frame hd)
    · exact addBit_frame hd

theorem edgeFrame_of_captured {s t : State} (h : EdgeFrame (captured s) t) : EdgeFrame s t := by
  obtain ⟨h1, h2, h3, h4, h5⟩ := h
  exact ⟨h1, by rw [h2]; rfl, h3, h4, h5⟩

theorem edgeFrame_set_tcnt {s t : State} (h : EdgeFrame s t) (v) : EdgeFrame s {t with tcnt := v} :=
    by
  obtain ⟨h1, h2, h3, h4, h5⟩ := h
  exact ⟨h1, by rw [h2], h3, h4, h5⟩

theorem edgeFrame_set_hightime {s t : State} (h : EdgeFrame s t) (v) : EdgeFrame s
    {t with hightime := v} := by
  obtain ⟨h1, h2, h3, h4, h5⟩ := h
  exact ⟨h1, by rw [h2], h3, h4, h5⟩

theorem riseGeneric_frame {s t : State} {b} (hp : isProducer s b) (hd : riseGeneric
    (scale s.cfg s.tcnt) s = .ok t) : EdgeFrame s t := by
  rw [riseGeneric_of_producer hp] at hd
  split at hd
  · cases hd; exact edgeFrame_of_captured (edgeFrame_arm_setProducer _ _ _)
  · exact edgeFrame_of_captured (dispatch_frame (p := b) hp hd)

/-- The outcomes of the Manchester rule in front of the generic path (R190). -/
inductive ManchesterOutcome (s : State) : Except Fault EdgeResult → Prop
  | cons (t) (h : EdgeFrame s t) : ManchesterOutcome s (.ok (.consumed t))
  | pass (h : ∃ b, isProducer s b ∧ b.state ≠ .hms ∧ b.state ≠ .esa) : ManchesterOutcome s
      (.ok (.fallthrough s))
  | long : ManchesterOutcome s (.ok (.fallthrough (resetInput (raise (.pulseTooLong s.inIdx) s))))

theorem manchesterFirst_outcome {s : State} {b} (hp : isProducer s b) (level c) : ManchesterOutcome
    s (manchesterFirst level c s) := by
  by_cases hm : b.state = .hms ∨ b.state = .esa
  · rw [manchesterFirst_of_producer _ _ hp hm]
    unfold manchesterEdge
    split
    · exact .cons _ (edgeFrame_refl hp)
    · split
      · exact .long
      · obtain ⟨t, ht⟩ := addBit_ok b (!level) id s
        simp only [ht, ok_bind]
        exact .cons _ (edgeFrame_set_tcnt (addBit_frame ht) _)
  · have : manchesterFirst level c s = .ok (.fallthrough s) := by
      simp only [not_or] at hm
      simp [manchesterFirst, producer_ok.2 hp, hm.1, hm.2]
    rw [this]
    exact .pass ⟨b, hp, by tauto, by tauto⟩

theorem manchesterFirst_producer {s : State} {level c r} (h : manchesterFirst level c s = .ok r) :
    ∃ b, isProducer s b := by
  obtain ⟨b, hb, -⟩ := bind_eq_ok.1 h
  exact ⟨b, producer_ok.1 hb⟩

theorem fallHandler_frame {s t : State} (hd : fallHandler s = .ok t) : EdgeFrame s t := by
  unfold fallHandler at hd
  obtain ⟨r, hr, hd⟩ := bind_eq_ok.1 hd
  obtain ⟨b, hp⟩ := manchesterFirst_producer hr
  have := manchesterFirst_outcome hp false (scale s.cfg s.tcnt)
  rw [hr] at this
  cases this with
  | cons t h => cases hd; exact h
  | pass h => cases hd; exact edgeFrame_set_hightime (edgeFrame_refl hp) _
  | long => cases hd; exact edgeFrame_set_hightime (edgeFrame_resetInput_raise _ _) _

theorem dispatch_reset_notices {h l} {s t : State} (hd : dispatch Bucket.cleared h l s = .ok t) :
    t.notices = s.notices := by
  change syncDetect Bucket.cleared h l s = .ok t at hd
  unfold syncDetect at hd
  split at hd
  · obtain ⟨b', -, e⟩ := bind_eq_ok.1 hd; cases e; rfl
  · split at hd
    · obtain ⟨b', -, e⟩ := bind_eq_ok.1 hd; cases e; rfl
    · split at hd
      · cases hd; rfl
      · cases hd; rfl

theorem riseHandler_frame {s t : State} (hd : riseHandler s = .ok t) : EdgeFrame s t := by
  unfold riseHandler at hd
  obtain ⟨r, hr, hd⟩ := bind_eq_ok.1 hd
  obtain ⟨b, hp⟩ := manchesterFirst_producer hr
  have := manchesterFirst_outcome hp true (scale s.cfg s.tcnt)
  rw [hr] at this
  cases this with
  | cons t h => cases hd; exact h
  | pass h => exact riseGeneric_frame hp hd
  | long =>
    have hp' : isProducer (resetInput (raise (.pulseTooLong s.inIdx) s)) Bucket.cleared :=
        isProducer_setProducer (b' := Bucket.cleared) hp
    change riseGeneric (scale (resetInput (raise (.pulseTooLong s.inIdx) s)).cfg
        (resetInput (raise (.pulseTooLong s.inIdx) s)).tcnt)
        (resetInput (raise (.pulseTooLong s.inIdx) s)) = .ok t at hd
    have hE := edgeFrame_of_resetInput (riseGeneric_frame hp' hd)
    have hN : t.notices = s.notices ++ [.pulseTooLong s.inIdx] := by
      rw [riseGeneric_of_producer hp'] at hd
      split at hd
      · cases hd; rfl
      · exact dispatch_reset_notices hd
    obtain ⟨h1, h2, h3, h4, h5⟩ := hE
    exact ⟨h1, by rw [h2]; rfl, h3, .inr ⟨_, hN⟩, h5⟩

/-- The silence handler resets the input with a notice, or commits (R200). -/
theorem silenceHandler_cases {s t : State} (h : silenceHandler s = .ok t) :
   (∃ b n x, isProducer s b ∧ t = { inputResetWith [n] s with sink := s.sink ++ x }) ∨
   (∃ b, isProducer s b ∧ falseAlarm b = false ∧ ringFull s = false ∧ t =
       { s with ocie := false, inIdx := ringSucc s.cfg s.inIdx, nrUsed := s.nrUsed + 1 }) := by
  obtain ⟨b, hb⟩ := silenceHandler_ok h
  rw [silenceHandler_of_producer hb] at h
  split at h
  · cases h; exact .inl ⟨b, _, [], hb, by simp [inputResetWith]; rfl⟩
  · rw [Except.ok.injEq] at h
    split at h
    · subst h; exact .inl ⟨b, _, _, hb, rfl⟩
    · subst h; exact .inr ⟨b, hb, by simp_all, by simp_all, rfl⟩

/-- TICK_US advances the counter, and runs the silence handler at most once (R110). -/
theorem tickBy_cases {n} {s t : State} (h : tickBy n s = .ok t) :
   t = { s with tcnt := s.tcnt + n } ∨ ∃ u v, silenceHandler { s with tcnt := s.ocr } = .ok u ∧
       s.ocie = true ∧ t = { u with tcnt := v } := by
  unfold tickBy at h
  dsimp only at h
  split at h
  · obtain ⟨u, hu, e⟩ := bind_eq_ok.1 h
    cases e
    exact .inr ⟨u, _, hu, by tauto, rfl⟩
  · cases h; exact .inl rfl

end Sys2Proof.Machine
end

