-- ==== Sys2Proof/Laws/PerInstr.lean ====
section
/-! SUPPORT. The layout of every event's word, one lemma per event. -/

namespace Sys2Proof.Laws.Layout

/-- R90: the word of an event has its opcode in bits 31:24, 0 in bits 23:16 and its operand field in
bits 15:0. -/
def Statement (i : Instr) : Prop :=
  fieldOp (encode i) = i.opcode.toByte ∧ fieldRsv (encode i) = 0 ∧ fieldImm (encode i) = i.imm

/-- The layout of any encoding. -/
theorem of_encode (i : Instr) : Statement i := (word_eq_fields _ _ _ _).1 rfl

theorem edgeFall : Statement .edgeFall := of_encode _
theorem edgeRise : Statement .edgeRise := of_encode _
theorem silenceTimeout : Statement .silenceTimeout := of_encode _
theorem taskPoll : Statement .taskPoll := of_encode _
theorem configure (imm : Half) : Statement (.configure imm) := of_encode _
theorem rxReset : Statement .rxReset := of_encode _
theorem tickUs (imm : Half) : Statement (.tickUs imm) := of_encode _
theorem ticksAdv (imm : Half) : Statement (.ticksAdv imm) := of_encode _
theorem setRssi (imm : Half) : Statement (.setRssi imm) := of_encode _
theorem hwReset : Statement .hwReset := of_encode _

end Sys2Proof.Laws.Layout
end

