-- ==== Sys2Proof/Laws/Poll.lean ====
section
/-! SUPPORT. What the deduplicator, the emitter and the poll can do. -/

namespace Sys2Proof.Machine

theorem dedup_shape {dt} {s t : State} (h : dedup dt s = .ok t) : ∃ rep, repeatFlag dt s = .ok rep ∧
    t = noteDuplicate dt (decidePackage dt rep (replaceFilter s)) := by
  obtain ⟨r, h1, h2⟩ := bind_eq_ok.1 h
  cases h2; exact ⟨r, h1, rfl⟩

theorem decidePackage_frame (dt rep) (s : State) : decidePackage dt rep s = { s with
      isRep := rep, isNotRep := (decidePackage dt rep s).isNotRep
      packageOK := (decidePackage dt rep s).packageOK } := by
  unfold decidePackage
  split
  · split <;> rfl
  · rfl

theorem noteDuplicate_frame (dt) (s : State) : noteDuplicate dt s =
    { s with notices := s.notices ++ if s.packageOK then [] else [.duplicate dt] } := by
  unfold noteDuplicate
  split <;> simp [raise]

/-- Everything the deduplicator does, but for the value of the repeat flag. -/
theorem dedup_frame {dt} {s t : State} (h : dedup dt s = .ok t) : ∃ rep, repeatFlag dt s = .ok rep ∧
    t.isRep = rep ∧ t = { s with
        isRep := t.isRep, isNotRep := t.isNotRep, packageOK := t.packageOK
        robuf := s.obuf, roby := BitVec.ofNat 8 (itemCount s), repTime := s.ticks
        notices := s.notices ++ if t.packageOK then [] else [.duplicate dt] } ∧ t.isNotRep =
            (s.isNotRep || (needsConfirmation dt && rep)) ∧ t.packageOK =
      if needsConfirmation dt then rep && !s.isNotRep else !rep := by
  obtain ⟨rep, h1, rfl⟩ := dedup_shape h
  refine ⟨rep, h1, ?_, ?_, ?_, ?_⟩
  · simp
  · rw [noteDuplicate_frame, decidePackage_frame]; rfl
  · simp
  · simp

/-- The repeat comparison as one condition (R261). -/
theorem repeatOfFilter_eq {s : State} (h : ScratchOk s) : repeatOfFilter s = .ok
    (decide (s.txReport.getLsbD 1 = false ∧ itemCount s = s.roby.toNat ∧
      (∀ j < itemCount s, Memory.read s.obuf j = Memory.read s.robuf j) ∧
      (s.ticks - s.repTime).toNat < s.cfg.reptime.toNat)) := by
  unfold repeatOfFilter
  have hi : itemCount s ≤ s.cfg.maxmsg := h.items
  simp only [reportFlag, REP_REPEATED]
  by_cases h1 : s.txReport.getLsbD 1 = true
  swap
  · have h1 : s.txReport.getLsbD 1 = false := by simpa using h1
    simp only [h1, Bool.false_eq_true, if_false, true_and]
    split
    · rename_i he
      rw [memSlice_of_le _ hi, memSlice_of_le _ hi]
      simp only [ok_bind]
      congr 1
      rw [← Bool.decide_and]
      congr 1
      simp only [he, true_and, List.map_inj_left, List.mem_range]
    · rename_i he
      simp [he]
  · simp [h1]

/-- The FHT test as one condition (R264). -/
theorem fhtControlFrame_eq {s : State} (hc : s.configured) : fhtControlFrame s = .ok
    (decide (Memory.read s.obuf s.cfg.fhtCtrlIndex ∈ s.cfg.fhtCtrl) || decide (Memory.read s.obuf 3
    &&& 0x70 = 0x70)) := by
  obtain ⟨_, _, h13, _, _, _, hi⟩ := hc
  unfold fhtControlFrame
  rw [memRead_of_lt _ hi, memRead_of_lt _ (by omega)]
  rfl

theorem dedup_total {dt} {s : State} (hc : s.configured) (hs : ScratchOk s) : ∃ t, dedup dt s = .ok
    t := by
  unfold dedup repeatFlag
  rw [repeatOfFilter_eq hs]
  simp only [ok_bind]
  split
  · rw [fhtControlFrame_eq hc]; exact ⟨_, rfl⟩
  · exact ⟨_, rfl⟩

theorem dedup_scratchOk {dt} {s t : State} (hs : ScratchOk s) (h : dedup dt s = .ok t) :
    ScratchOk t := by
  obtain ⟨rep, _, _, e, _⟩ := dedup_frame h
  rw [e]
  have hi : itemCount s ≤ s.cfg.maxmsg := hs.items
  exact ⟨hs.obufWf, hs.obufWf, hs.items, by simp; omega⟩

theorem emitFrame_frame {dt} {s t : State} (h : emitFrame dt s = .ok t) :
    t = { s with sink := t.sink } := by
  unfold emitFrame at h
  split at h
  · obtain ⟨l, _, e⟩ := bind_eq_ok.1 h
    cases e; rfl
  · cases h; rfl

/-- The frame line of a scratch within its arrays (R270). -/
theorem frameLine_eq {dt} {s : State} (hs : ScratchOk s) : frameLine dt s = .ok
    ([typeChar s.cfg.typeChars dt] ++ ((List.range s.oby.toNat).map (Memory.read s.obuf)).flatMap
    hex2 ++ (if s.nibble then [hex1 (loNibble (Memory.read s.obuf s.oby.toNat))] else []) ++
    rssiPair s ++ newline) := by
  unfold frameLine nibbleDigit
  have := hs.items
  rw [memSlice_of_le _ (by omega)]
  simp only [ok_bind]
  cases hn : s.nibble
  · rfl
  · rw [hn] at this
    simp at this
    rw [if_pos rfl, memRead_of_lt _ (by omega)]
    rfl

theorem emitFrame_total {dt} {s : State} (hs : ScratchOk s) : ∃ t, emitFrame dt s = .ok t := by
  unfold emitFrame
  split
  · rw [frameLine_eq hs]; exact ⟨_, rfl⟩
  · exact ⟨_, rfl⟩

theorem callFhtHook_frame {dt} {s t : State} (h : callFhtHook dt s = .ok t) :
    t = { s with calls := s.calls ++
      if dt = .fht then [.fhtHook ((List.range s.oby.toNat).map (Memory.read s.obuf))] else [] } :=
          by
  unfold callFhtHook at h
  split at h
  · obtain ⟨l, hl, e⟩ := bind_eq_ok.1 h
    cases e
    rw [(memSlice_ok.1 hl).2, if_pos ‹_›]; rfl
  · cases h; rw [if_neg ‹_›]; simp

theorem callFhtHook_total {dt} {s : State} (hs : ScratchOk s) : ∃ t, callFhtHook dt s = .ok t := by
  unfold callFhtHook
  split
  · rw [memSlice_of_le _ (by have := hs.items; omega)]; exact ⟨_, rfl⟩
  · exact ⟨_, rfl⟩

/-- Everything the delivery of a classified frame can write (R210). -/
structure DeliverFrame (dt : Datatype) (s t : State) : Prop where
  rest : t = { s with
        isRep := t.isRep, isNotRep := t.isNotRep, packageOK := t.packageOK
        robuf := s.obuf, roby := BitVec.ofNat 8 (itemCount s), repTime := s.ticks
        notices := s.notices ++ if t.packageOK then [] else [.duplicate dt]
        calls := s.calls ++
          if dt = .fht then [.fhtHook ((List.range s.oby.toNat).map (Memory.read s.obuf))] else []
        sink := t.sink }

theorem deliver_frame {dt} {s t : State} (h : deliver dt s = .ok t) : DeliverFrame dt s t := by
  obtain ⟨u, h1, h⟩ := bind_eq_ok.1 h
  obtain ⟨v, h2, h3⟩ := bind_eq_ok.1 h
  have e1 := callFhtHook_frame h1
  obtain ⟨rep, _, _, e2, _⟩ := dedup_frame h2
  have e3 := emitFrame_frame h3
  constructor
  have a1 : t.isRep = v.isRep := by rw [e3]
  have a2 : t.isNotRep = v.isNotRep := by rw [e3]
  have a3 : t.packageOK = v.packageOK := by rw [e3]
  rw [a1, a2, a3]
  rw [e3]
  rw [e2]
  rw [e1]
  rfl

theorem deliver_total {dt} {s : State} (hc : s.configured) (hs : ScratchOk s) : ∃ t, deliver dt s =
    .ok t ∧ ScratchOk t := by
  obtain ⟨u, h1⟩ := callFhtHook_total (dt := dt) hs
  have e1 := callFhtHook_frame h1
  have hcu : u.configured := by rw [e1]; exact hc
  have hsu : ScratchOk u := by rw [e1]; exact ⟨hs.1, hs.2, hs.3, hs.4⟩
  obtain ⟨v, h2⟩ := dedup_total (dt := dt) hcu hsu
  have hsv := dedup_scratchOk hsu h2
  obtain ⟨t, h3⟩ := emitFrame_total (dt := dt) hsv
  have e3 := emitFrame_frame h3
  refine ⟨t, ?_, ?_⟩
  · simp only [deliver, h1, ok_bind, h2, h3]
  · rw [e3]; exact ⟨hsv.1, hsv.2, hsv.3, hsv.4⟩

/-- The three outcomes of a poll (R210). -/
inductive PollOutcome (s : State) : State → Prop
  | empty (h : s.nrUsed = 0) : PollOutcome s s
  | fail (b a) (hn : s.nrUsed ≠ 0) (h : isConsumer s b) (hr : runAnalyzers s.cfg s.hightime b
      analyzerOrder (scratchOf s) = .ok a) (hv : a.verdict = none) :
      PollOutcome s (release (raise (.checkFail s.outIdx) (setScratch a s)))
  | frame (b a dt u) (hn : s.nrUsed ≠ 0) (h : isConsumer s b) (hr : runAnalyzers s.cfg s.hightime b
      analyzerOrder (scratchOf s) = .ok a) (hv : a.verdict = some dt) (hd :
      deliver dt (setScratch a s) = .ok u) : PollOutcome s (release u)

/-- A poll that answers has one of its three outcomes. -/
theorem pollHandler_cases {s t : State} (h : pollHandler s = .ok t) : PollOutcome s t := by
  unfold pollHandler at h
  split at h
  · cases h; exact .empty ‹_›
  · obtain ⟨b, h1, h⟩ := bind_eq_ok.1 h
    obtain ⟨a, h2, h⟩ := bind_eq_ok.1 h
    dsimp only at h
    split at h
    · cases h; exact .fail b a ‹_› (consumer_ok.1 h1) h2 ‹_›
    · obtain ⟨u, h3, h⟩ := bind_eq_ok.1 h
      cases h; exact .frame b a _ u ‹_› (consumer_ok.1 h1) h2 ‹_› h3

end Sys2Proof.Machine
end

