-- ==== Sys2Proof/Laws/Router.lean ====
section
/-! SUPPORT. The router formulas express every predicate of the bucket and the wave, so a
configuration can hold any shape (00_scope.md rule R7). -/

namespace Sys2Proof.Machine

/-- The formula that holds of one value of a quantity. -/
def routerExactly (q : RouterQuantity) (v : Nat) : RouterSync := .within q v v

/-- The formula that holds where some formula of a list does. -/
def routerAny (ps : List RouterSync) : RouterSync :=
  .not (ps.foldr (fun p q => .and (.not p) q) .always)

/-- The formula that holds where every formula of a list does. -/
def routerAll (ps : List RouterSync) : RouterSync := ps.foldr .and .always

/-- Everything a formula can look at in a bucket of `n` bytes. -/
def routerQuantities (n : Nat) : List RouterQuantity :=
  [.hightime, .lowtime, .state, .zeroHigh, .zeroLow, .oneHigh, .oneLow, .sync, .byteIdx, .bitIdx] ++
    (List.range n).map .dataByte

/-- The formula of one bucket of `n` bytes and one wave. -/
def routerPoint (n : Nat) (b : Bucket) (h l : Half) : RouterSync :=
  routerAll ((routerQuantities n).map fun q => routerExactly q (routerQuantity b h l q))

@[simp] theorem routerExactly_holds (b : Bucket) (h l : Half) (q : RouterQuantity) (v : Nat) :
    routerFormulaHolds b h l (routerExactly q v) = decide (routerQuantity b h l q = v) := by
  rw [Bool.eq_iff_iff]
  simp only [routerExactly, routerFormulaHolds, Bool.and_eq_true, decide_eq_true_eq]
  omega

@[simp] theorem routerAll_holds (b : Bucket) (h l : Half) (ps : List RouterSync) :
    routerFormulaHolds b h l (routerAll ps) = ps.all (routerFormulaHolds b h l) := by
  unfold routerAll
  induction ps with
  | nil => rfl
  | cons p ps ih => simp [routerFormulaHolds, ih]

@[simp] theorem routerAny_holds (b : Bucket) (h l : Half) (ps : List RouterSync) :
    routerFormulaHolds b h l (routerAny ps) = ps.any (routerFormulaHolds b h l) := by
  unfold routerAny
  induction ps with
  | nil => rfl
  | cons p ps ih => simp_all [routerFormulaHolds]

theorem BucketState.code_lt (st : BucketState) : st.code < 10 := by cases st <;> decide

theorem BucketState.code_injective : Function.Injective BucketState.code := by
  intro a b h
  cases a <;> cases b <;> first | rfl | exact absurd h (by decide)

/-- A bucket of `n` bytes and a wave are what the quantities say of them. -/
theorem eq_of_routerQuantity {n : Nat} {b b' : Bucket} {h h' l l' : Half}
    (hb : Memory.wf n b.data) (hb' : Memory.wf n b'.data)
    (e : ∀ q ∈ routerQuantities n, routerQuantity b h l q = routerQuantity b' h' l' q) :
    b = b' ∧ h = h' ∧ l = l' := by
  have bv {w : Nat} {x y : BitVec w} (k : x.toNat = y.toNat) : x = y := BitVec.eq_of_toNat_eq k
  have at' (q) (hq : q ∈ routerQuantities n) := e q hq
  have hd : b.data = b'.data := by
    apply Memory.ext_of_wf hb hb'
    intro i
    by_cases hi : i < n
    · exact bv (at' (.dataByte i) (by simp [routerQuantities, hi]))
    · rw [Memory.read_of_le hb (by omega), Memory.read_of_le hb' (by omega)]
  have h1 := bv (at' .hightime (by simp [routerQuantities]))
  have h2 := bv (at' .lowtime (by simp [routerQuantities]))
  have h3 := BucketState.code_injective (at' .state (by simp [routerQuantities]))
  have h4 := bv (at' .zeroHigh (by simp [routerQuantities]))
  have h5 := bv (at' .zeroLow (by simp [routerQuantities]))
  have h6 := bv (at' .oneHigh (by simp [routerQuantities]))
  have h7 := bv (at' .oneLow (by simp [routerQuantities]))
  have h8 := bv (at' .sync (by simp [routerQuantities]))
  have h9 := bv (at' .byteIdx (by simp [routerQuantities]))
  have h10 := Fin.ext (at' .bitIdx (by simp [routerQuantities]))
  obtain ⟨_, ⟨_, _⟩, ⟨_, _⟩, _, _, _, _⟩ := b
  obtain ⟨_, ⟨_, _⟩, ⟨_, _⟩, _, _, _, _⟩ := b'
  simp only at *
  subst hd h3 h4 h5 h6 h7 h8 h9 h10
  exact ⟨rfl, h1, h2⟩

/-- Only finitely many buckets of `n` bytes and waves exist. -/
theorem finite_buckets (n : Nat) :
    {p : Bucket × Half × Half | Memory.wf n p.1.data}.Finite := by
  have bound (b : Bucket) (h l : Half) (q : RouterQuantity) : routerQuantity b h l q < 2 ^ 16 := by
    cases q
    case state => exact lt_trans b.state.code_lt (by decide)
    case bitIdx => exact lt_trans b.bitIdx.isLt (by decide)
    case sync => exact lt_trans b.sync.isLt (by decide)
    case byteIdx => exact lt_trans b.byteIdx.isLt (by decide)
    case dataByte i => exact lt_trans (Memory.read b.data i).isLt (by decide)
    all_goals exact BitVec.isLt _
  let f (p : Bucket × Half × Half) : Fin (routerQuantities n).length → Fin (2 ^ 16) :=
    fun i => ⟨routerQuantity p.1 p.2.1 p.2.2 (routerQuantities n)[i], bound ..⟩
  apply Set.Finite.of_injOn (f := f) (t := Set.univ) (fun _ _ => trivial) ?_ Set.finite_univ
  rintro ⟨b, h, l⟩ hb ⟨b', h', l'⟩ hb' e
  have : ∀ q ∈ routerQuantities n, routerQuantity b h l q = routerQuantity b' h' l' q := by
    intro q hq
    obtain ⟨i, hi, rfl⟩ := List.getElem_of_mem hq
    exact congrArg Fin.val (congrFun e ⟨i, hi⟩)
  obtain ⟨rfl, rfl, rfl⟩ := eq_of_routerQuantity hb hb' this
  rfl

/-- Every predicate of the bucket and the wave is a router formula. -/
theorem exists_routerSync_of_predicate (n : Nat) (P : Bucket → Half → Half → Bool) :
    ∃ r : RouterSync, ∀ (b : Bucket) (h l : Half), Memory.wf n b.data →
      routerFormulaHolds b h l r = P b h l := by
  classical
  let points := ((finite_buckets n).toFinset.toList).filter fun p => P p.1 p.2.1 p.2.2
  refine ⟨routerAny (points.map fun p => routerPoint n p.1 p.2.1 p.2.2), fun b h l hb => ?_⟩
  rw [Bool.eq_iff_iff]
  simp only [routerAny_holds, List.any_eq_true, List.mem_map, points, List.mem_filter,
    Finset.mem_toList, Set.Finite.mem_toFinset, Set.mem_ofPred_eq]
  constructor
  · rintro ⟨_, ⟨⟨b', h', l'⟩, ⟨hb', hp⟩, rfl⟩, hh⟩
    have : ∀ q ∈ routerQuantities n, routerQuantity b h l q = routerQuantity b' h' l' q := by
      simpa [routerPoint] using hh
    obtain ⟨rfl, rfl, rfl⟩ := eq_of_routerQuantity hb hb' this
    exact hp
  · intro hp
    exact ⟨_, ⟨(b, h, l), ⟨hb, hp⟩, rfl⟩, by simp [routerPoint]⟩

end Sys2Proof.Machine
end

