-- ==== Sys2Proof/Tests/Slice0.lean ====
section
/-! SUPPORT. The model's own tests: the checks of WellFormed and Decode, at most two steps of each
event with the values of 95_test_vectors.md, and for every statement with hypotheses a state that
meets them. -/

/- The tests are elaborated one after the other: in parallel their threads' stacks pass the memory
limit of the check. -/
set_option Elab.async false

namespace Sys2Proof.Tests

open Sys2Proof.Machine

/-! ### Helpers -/

/-- The default parameters, with a value for the parameter the spec leaves open. -/
def cfg0 : Config := { defaultConfig with esaCrc := 0 }

/-- The machine after power-on under `cfg0`. -/
def idle : State := State.powerOn cfg0

/-- Bits packed into bytes, the first the most significant (R73), in canonical form. -/
def packed (bits : List Bool) : Memory :=
  ((List.range ((bits.length + 7) / 8)).map fun j =>
    ((j, BitVec.ofNat 8 (bitsValue (((bits.drop (8 * j)).take 8 ++ List.replicate 7 false).take 8))) :
      Host.Cell)).filter fun c => c.2 != 0

/-- A bucket that holds these bits. -/
def holding (st : BucketState) (bits : List Bool) : Bucket :=
  { Bucket.cleared with
    state := st
    byteIdx := BitVec.ofNat 8 (bits.length / 8)
    bitIdx := ⟨7 - bits.length % 8, by omega⟩
    data := packed bits }

/-- The idle machine with a producer bucket in progress. -/
def receiving (b : Bucket) : State := { setProducer b idle with ocie := true, ocr := 4000 }

/-- About to see a rising edge that presents the wave `(h, l)` (R113): `h + l < 4096`. -/
def facing (h l : Nat) (s : State) : State :=
  { s with hightime := BitVec.ofNat 16 h, tcnt := BitVec.ofNat 16 (16 * (h + l)) }

/-- The idle machine with one committed bucket. -/
def committedWith (b : Bucket) : State :=
  { idle with
    buckets := [b, Bucket.cleared, Bucket.cleared, Bucket.cleared]
    inIdx := 1, nrUsed := 1, txReport := 1 }

/-- The outcome is a next state with a property. -/
def gives (o : Host.Outcome State Fault Refusal) (p : State → Bool) : Bool :=
  match o with
  | .next t => p t
  | .fault _ => false
  | .refused _ => false

/-- A computation answers a state with a property. -/
def answers (r : Except Fault State) (p : State → Bool) : Bool :=
  match r with
  | .ok t => p t
  | .error _ => false

/-- The FS20 frame of 95_test_vectors.md §2.1. -/
def fs20Bytes : List Byte := [0x10, 0x22, 0x10, 0x0B, 0x53]

/-- The bucket of that frame: 45 bits, packed as §2.1 gives them. -/
def fs20Bucket : Bucket :=
  { Bucket.cleared with
    state := .collect, byteIdx := 5, bitIdx := 2
    data := [(0, 0x10), (1, 0x91), (2, 0x04), (3, 0x21), (4, 0x75), (5, 0x30)] }

/-- The bucket of the Intertechno frame of §2.2. -/
def itBucket : Bucket :=
  { Bucket.cleared with
    state := .it, byteIdx := 3, data := [(0, 0x55), (1, 0x15), (2, 0x51)] }

theorem test_holding_fs20 : holding .collect (fs20Stream fs20Bytes) = fs20Bucket := by decide +kernel

/-! ### WellFormed -/

theorem test_wf_configure_high_byte : (Instr.configure 0x0100).wf = false := by decide
theorem test_wf_setRssi_high_byte : (Instr.setRssi 0x8000).wf = false := by decide
theorem test_wf_configure_byte : (Instr.configure 0x00FF).wf = true := by decide
theorem test_wf_counts : (Instr.tickUs 0xFFFF).wf = true ∧ (Instr.ticksAdv 0xFFFF).wf = true := by
  decide

/-! ### Decode: the words of 30_encoding.md R98 and 95_test_vectors.md §3.1, bit by bit -/

theorem test_decode_edgeFall :
    decode 0b00000001_00000000_0000000000000000#32 = .ok .edgeFall := by decide
theorem test_decode_edgeRise :
    decode 0b00000010_00000000_0000000000000000#32 = .ok .edgeRise := by decide
theorem test_decode_silenceTimeout :
    decode 0b00000011_00000000_0000000000000000#32 = .ok .silenceTimeout := by decide
theorem test_decode_taskPoll :
    decode 0b00000100_00000000_0000000000000000#32 = .ok .taskPoll := by decide
theorem test_decode_configure :
    decode 0b00000101_00000000_0000000011111111#32 = .ok (.configure 0xFF) := by decide
theorem test_decode_rxReset :
    decode 0b00000110_00000000_0000000000000000#32 = .ok .rxReset := by decide
theorem test_decode_tickUs :
    decode 0b00000111_00000000_1111111111111111#32 = .ok (.tickUs 65535) := by decide
theorem test_decode_ticksAdv :
    decode 0b00001000_00000000_0000000000100000#32 = .ok (.ticksAdv 32) := by decide
theorem test_decode_setRssi :
    decode 0b00001001_00000000_0000000010000000#32 = .ok (.setRssi 0x80) := by decide
theorem test_decode_hwReset :
    decode 0b00001010_00000000_0000000000000000#32 = .ok .hwReset := by decide
theorem test_decode_unknown :
    decode 0x00000000 = .error .unknownOpcode ∧ decode 0x0B000000 = .error .unknownOpcode ∧
      decode 0xFF000000 = .error .unknownOpcode := by decide
theorem test_decode_reserved :
    decode 0x01000001 = .error .reservedBits ∧ decode 0x07010000 = .error .reservedBits ∧
      decode 0x05000100 = .error .reservedBits ∧ decode 0x09008000 = .error .reservedBits ∧
      decode 0x0A000001 = .error .reservedBits := by decide
theorem test_decodeTableWord : decodeTableWord 32 0x07000190 = some (.tickUs 400) := by decide

/-! ### One event each (95_test_vectors.md §3) -/

/-- §3.3: `tick 400`, `fall`. -/
theorem test_edgeFall_stores_count :
    gives (exec .edgeFall { idle with tcnt := 400 })
      (fun t => t.hightime = 25 && t.tcnt = 400) = true := by decide

/-- §3.9: HMS, a falling edge at 1400 is too long and falls through. -/
theorem test_edgeFall_hms_too_long :
    gives (exec .edgeFall { receiving (holding .hms [true, false]) with tcnt := 1400 })
      (fun t => t.hightime = 87 && t.notices = [.pulseTooLong 0] && !t.ocie) = true := by decide

/-- §3.3: `pulse 415,415`, which ends with the wave (25, 26). -/
theorem test_edgeRise_first_pulse :
    gives (exec .edgeRise { idle with hightime := 25, tcnt := 830 })
      (fun t => t.lowtime = 26 && t.tcnt = 0 && t.ocr = 4000 && t.ocie &&
        t.buckets.headD Bucket.cleared =
          { Bucket.cleared with state := .sync, zero := ⟨25, 26⟩, sync := 1 }) = true := by decide

/-- §3.5: twelve sync pulses and s = 112 classify HMS. -/
theorem test_edgeRise_hms_preamble :
    gives (exec .edgeRise (facing 90 90
        (receiving { Bucket.cleared with state := .sync, zero := ⟨62, 50⟩, sync := 12 })))
      (fun t => (t.buckets.headD Bucket.cleared).state = .hms &&
        (t.buckets.headD Bucket.cleared).one = ⟨90, 90⟩ && t.ocr = 4000) = true := by decide

/-- §3.10: 16 bits in COLLECT are committed, `isNotRep` is kept. -/
theorem test_silenceTimeout_commits :
    gives (exec .silenceTimeout
        { receiving (holding .collect (List.replicate 16 true)) with isNotRep := true })
      (fun t => t.inIdx = 1 && t.nrUsed = 1 && !t.ocie && t.isNotRep) = true := by decide

/-- §2.5: with N − 1 buckets committed the frame is dropped, with the line BOVF. -/
theorem test_silenceTimeout_overflows :
    gives (exec .silenceTimeout
        { receiving (holding .collect (List.replicate 40 true)) with
          nrUsed := 3, outIdx := 1, txReport := 4 })
      (fun t => t.notices = [.ringOverflow 0] && t.sink = [0x42, 0x4F, 0x56, 0x46, 0x0D, 0x0A] &&
        t.nrUsed = 3 && t.buckets.headD fs20Bucket = Bucket.cleared) = true := by decide +kernel

/-- §2.1: the FS20 frame is emitted as `F1022100B53`. -/
theorem test_taskPoll_fs20 :
    gives (exec .taskPoll (committedWith fs20Bucket))
      (fun t => t.datatype = some .fs20 && t.sink =
        [0x46, 0x31, 0x30, 0x32, 0x32, 0x31, 0x30, 0x30, 0x42, 0x35, 0x33, 0x0D, 0x0A] &&
        t.nrUsed = 0 && t.outIdx = 1) = true := by decide +kernel

/-- §2.2: the first Intertechno frame is dropped as DUPLICATE(IT). -/
theorem test_taskPoll_it_first :
    gives (exec .taskPoll (committedWith itBucket))
      (fun t => t.datatype = some .it && t.notices = [.duplicate .it] && t.sink = []) = true := by
  decide +kernel

/-- §3.15: `config 0x21` in COLLECT. -/
theorem test_configure_cancels :
    gives (exec (.configure 0x21) { receiving (holding .collect [true]) with roby := 3, isRep := true })
      (fun t => t.notices = [.cancelled 0] && t.txReport = 0x21 && t.roby = 0 && !t.isRep) = true := by
  decide

/-- §3.1: `rxreset`, idle, raises no notice and changes nothing. -/
theorem test_rxReset_idle : gives (exec .rxReset idle) (fun t => decide (t = idle)) = true := by
  decide

/-- §3.15: `rxreset` in SYNC. -/
theorem test_rxReset_sync :
    gives (exec .rxReset (receiving { Bucket.cleared with state := .sync, sync := 3 }))
      (fun t => t.notices = [.cancelled 0] && t.buckets.headD fs20Bucket = Bucket.cleared) = true := by
  decide

/-- §3.2: the compare matches within `tick 20`. -/
theorem test_tickUs_match :
    gives (exec (.tickUs 20) { idle with tcnt := 3990, ocr := 4000, ocie := true })
      (fun t => t.tcnt = 4010 && !t.ocie && t.notices = [.frameTooShort 0]) = true := by decide

/-- §3.2: the counter wraps before the match. -/
theorem test_tickUs_wraps :
    gives (exec (.tickUs 8) { idle with tcnt := 0xFFFE, ocr := 5, ocie := true })
      (fun t => t.tcnt = 6 && !t.ocie && t.notices = [.frameTooShort 0]) = true := by decide

/-- §3.15: the counter wraps. -/
theorem test_ticksAdv_wraps :
    gives (exec (.ticksAdv 0x20) { idle with ticks := 0xFFFFFFF0 }) (fun t => t.ticks = 0x10) =
      true := by decide

theorem test_setRssi :
    gives (exec (.setRssi 0x5A) idle) (fun t => t.rssi = 0x5A) = true := by decide

/-- §3.16: the sink is kept, everything else is at reset. -/
theorem test_hwReset :
    gives (exec .hwReset
        { idle with
          nrUsed := 2, outIdx := 1, inIdx := 3, txReport := 0x21, refused := true, tcnt := 77
          sink := [0x41] })
      (fun t => decide (t = { idle with sink := [0x41] })) = true := by decide

/-- R96: an illegal word is recorded and the stream goes on. -/
theorem test_step_refuses_in_place :
    gives (step { idle with inputs := [0x0B000000, 0x01000000] })
      (fun t => t.refused && t.notices = [.refused 0x0B000000] && t.inputs = [0x01000000] &&
        t.index = 1) = true := by decide

/-! ### Witnesses: states that meet the hypotheses of each statement -/

/-- A machine in the middle of its work: one FS20 frame committed, the next event a poll. -/
def working : State := { committedWith fs20Bucket with inputs := [0x04000000], hightime := 25 }

theorem fs20Bucket_ok : BucketOk cfg0 fs20Bucket where
  cursor := by decide +kernel
  dataWf := by decide +kernel
  unwritten := by decide +kernel
  resetCleared := by decide +kernel
  syncEmpty := by decide +kernel
  notInit := by decide +kernel

theorem working_inv : Inv working where
  legal := by decide +kernel
  ring :=
    { size := rfl
      outRange := by decide +kernel
      usedRange := by decide +kernel
      inFollows := by decide +kernel
      bucketsOk := by
        intro b hb
        have hb : b = fs20Bucket ∨ b = Bucket.cleared := by
          simpa [working, committedWith] using hb
        rcases hb with rfl | rfl
        · exact fs20Bucket_ok
        · constructor <;> decide +kernel
      committed := by
        intro k hk
        have hk : k < 1 := hk
        obtain rfl : k = 0 := by omega
        exact ⟨fs20Bucket, rfl, by decide +kernel, by decide +kernel⟩
      free := by
        intro k hk hkN
        have hk : 1 < k := hk
        have hkN : k < 4 := hkN
        interval_cases k <;> rfl }
  timer :=
    { armed := by
        intro b hb
        have hb : some Bucket.cleared = some b := hb
        cases hb; decide +kernel
      interval := by
        intro b hb
        have hb : some Bucket.cleared = some b := hb
        cases hb; decide +kernel }
  capture := ⟨rfl, rfl⟩
  scratch := ⟨by decide +kernel, by decide +kernel, by decide +kernel, by decide +kernel⟩

theorem witness_StepRunsTheDecodedEvent :
    working.configured ∧ working.inputs = [0x04000000] ∧ decode 0x04000000 = .ok .taskPoll := by
  decide +kernel

theorem witness_IllegalWordIsRefusedInPlace :
    idle.configured ∧ decode 0x0B000000 = .error .unknownOpcode ∧
      decode 0x05000100 = .error .reservedBits := by decide +kernel

/-- A ring of one bucket, and a MAXMSG that cannot hold the ESA frame, with ESA enabled and disabled,
at the bounds of R7. -/
theorem witness_IllegalConfigurationIsRefused :
    cfg0.nBuckets = 4 ∧ { cfg0 with nBuckets := 1 }.nBuckets < 2 ∧
      { cfg0 with maxmsg := 17, enabled := [.fs20] }.maxmsg < 18 ∧
      gives (step { idle with cfg := { cfg0 with maxmsg := 18, enabled := [] } }) (fun _ => true) =
        true ∧
      gives (step { idle with cfg := { cfg0 with maxmsg := 17, enabled := [] } }) (fun _ => true) =
        false := by decide +kernel

theorem witness_NoEventChangesNothing : idle.configured ∧ idle.inputs = [] := by decide +kernel

/-- Legal configurations at both ends of the ranges. -/
theorem witness_PowerOnMeetsTheInvariant :
    legalConfig { cfg0 with nBuckets := 2, maxmsg := 18, pulseW := .w8 } ∧
      legalConfig { cfg0 with nBuckets := 255, maxmsg := 255, esaBitLen := .b160 } := by
  decide +kernel

theorem witness_EventIndexAdvancesByOne :
    working.inputs = 0x04000000 :: [] ∧ gives (step working) (fun t => t.index = 1) = true := by
  decide +kernel

theorem witness_SoundStateAlwaysSteps : Inv working := working_inv

theorem witness_StepKeepsTheInvariant :
    Inv working ∧ gives (step working) (fun t => t.nrUsed = 0) = true :=
  ⟨working_inv, by decide +kernel⟩

/-- The ring's hypotheses, with a committed bucket to tell apart from the producer's. -/
theorem witness_RingIndicesAreKept :
    2 ≤ working.cfg.nBuckets ∧ working.cfg.nBuckets ≤ 255 ∧
      working.outIdx.toNat < working.cfg.nBuckets ∧
      working.nrUsed.toNat ≤ working.cfg.nBuckets - 1 ∧
      working.inIdx.toNat = ringIndex working working.nrUsed.toNat ∧ 0 < working.nrUsed.toNat ∧
      gives (exec .taskPoll working) (fun t => t.outIdx = 1) = true := by decide +kernel

/-- An event that appends a line, and one that appends a notice. -/
theorem witness_TracesAreAppendOnlyAndNeverRead :
    gives (exec .taskPoll working) (fun t => t.sink.length = 13) = true ∧
      gives (exec .rxReset (receiving fs20Bucket)) (fun t => t.notices = [.cancelled 0]) = true := by
  decide +kernel

/-- An event that appends a notice, and one that appends none. -/
theorem witness_EventAppendsAtMostOneNotice :
    gives (exec .rxReset (receiving fs20Bucket)) (fun t => t.notices = [.cancelled 0]) = true ∧
      gives (exec .rxReset idle) (fun t => t.notices = []) = true := by decide +kernel

theorem witness_ParametersNeverChange :
    gives (step working) (fun t => decide (t.cfg = cfg0)) = true := by decide +kernel

/-- No match in 3999 microseconds from 0 with OCR at 4000; and with the compare off. -/
theorem witness_TickUsWithoutMatchAdvancesTheTimer :
    let s := { idle with ocr := 4000, ocie := true }
    (s.ocie = true → ∀ k : Nat, 1 ≤ k → k ≤ (3999 : Half).toNat →
      s.tcnt + BitVec.ofNat 16 k ≠ s.ocr) ∧ idle.ocie = false := by
  refine ⟨fun _ k h1 h2 h => ?_, rfl⟩
  have h2 : k ≤ 3999 := h2
  have := congrArg BitVec.toNat h
  simp [idle, State.powerOn] at this
  omega

/-- The match at the last of the microseconds. -/
theorem witness_TickUsTakesTheCompareInterrupt :
    let s := receiving fs20Bucket
    isProducer s fs20Bucket ∧ s.ocie = true ∧ 4000 ≤ (4000 : Half).toNat ∧
      s.tcnt + BitVec.ofNat 16 4000 = s.ocr := by decide +kernel

/-- Disarmed; a false alarm by its state; one at 15 bits; a full ring; a commit at 16 bits. -/
theorem witness_SilenceTimeoutOutcomes :
    let tooFew := holding .collect (List.replicate 15 true)
    let enough := holding .collect (List.replicate 16 true)
    let sync := { Bucket.cleared with state := .sync, byteIdx := 3 }
    let full := { receiving enough with nrUsed := 3, outIdx := 1 }
    let notFull := { receiving enough with nrUsed := 2, outIdx := 2 }
    (isProducer idle Bucket.cleared ∧ idle.ocie = false) ∧
    (isProducer (receiving sync) sync ∧ (receiving sync).ocie = true) ∧
    (isProducer (receiving tooFew) tooFew ∧ tooFew.state = .collect ∧ tooFew.byteIdx.toNat < 2) ∧
    (isProducer full enough ∧ full.ocie = true ∧ enough.state = .collect ∧
      ¬ enough.byteIdx.toNat < 2 ∧ full.nrUsed.toNat + 1 = full.cfg.nBuckets) ∧
    (isProducer notFull enough ∧ notFull.nrUsed.toNat + 1 ≠ notFull.cfg.nBuckets) := by
  decide +kernel

theorem witness_FallingEdgeStoresTheCount :
    isProducer idle Bucket.cleared ∧ Bucket.cleared.state ≠ .hms ∧ Bucket.cleared.state ≠ .esa := by
  decide +kernel

/-- The scaled counts at both sides of both ends of the windows (R190), on either edge: too short,
within, too long. -/
theorem witness_ManchesterFallingEdge :
    (∀ p ∈ [(735, 0), (736, 1), (1263, 1), (1264, 2)],
      let s := { receiving (holding .hms [true]) with tcnt := p.1 }
      let c := (scale s.cfg s.tcnt).toNat
      isProducer s (holding .hms [true]) ∧ (holding .hms [true]).state = .hms ∧
        (if c < 46 then 0 else if c ≤ 78 then 1 else 2) = p.2) ∧
    (∀ p ∈ [(367, 0), (368, 1), (639, 1), (640, 2)],
      let s := { receiving (holding .esa [true]) with tcnt := p.1 }
      let c := (scale s.cfg s.tcnt).toNat
      isProducer s (holding .esa [true]) ∧ (holding .esa [true]).state = .esa ∧
        (if c < 23 then 0 else if c ≤ 39 then 1 else 2) = p.2) := by decide +kernel

/-- The same bounds on a rising edge: the edge is ignored, appends a bit, or is too long. -/
theorem witness_ManchesterRisingEdge :
    (∀ p ∈ [(735, 0), (736, 1), (1263, 1), (1264, 2)],
      let s := { receiving (holding .hms [true]) with tcnt := p.1 }
      let c := (scale s.cfg s.tcnt).toNat
      isProducer s (holding .hms [true]) ∧ (holding .hms [true]).state = .hms ∧
        (if c < 46 then 0 else if c ≤ 78 then 1 else 2) = p.2 ∧
        gives (exec .edgeRise s) (fun t => if p.2 = 0 then decide (t = s) else
          decide (t.tcnt = 0) && t.notices.length == p.2 - 1) = true) ∧
    (∀ p ∈ [(367, 0), (368, 1), (639, 1), (640, 2)],
      let s := { receiving (holding .esa [true]) with tcnt := p.1 }
      let c := (scale s.cfg s.tcnt).toNat
      isProducer s (holding .esa [true]) ∧ (holding .esa [true]).state = .esa ∧
        (if c < 23 then 0 else if c ≤ 39 then 1 else 2) = p.2 ∧
        gives (exec .edgeRise s) (fun t => if p.2 = 0 then decide (t = s) else
          decide (t.tcnt = 0) && t.notices.length == p.2 - 1) = true) := by decide +kernel

/-- Each kind of producer event answers a next state. -/
theorem witness_ProducerEventsLeaveTheConsumerAlone :
    gives (exec .edgeFall (facing 25 50 working)) (fun t => t.inIdx = 1) = true ∧
      gives (exec .edgeRise (facing 25 50 working)) (fun t => t.ocie) = true ∧
      gives (exec .silenceTimeout (receiving fs20Bucket)) (fun t => t.nrUsed = 1) = true ∧
      gives (exec (.tickUs 4000) (receiving fs20Bucket)) (fun t => t.nrUsed = 1) = true := by
  decide +kernel

/-- A rising edge faces a wave that is no Revolt preamble, with this producer bucket. -/
abbrev FacesWave (s : State) (b : Bucket) : Prop :=
  isProducer s b ∧ 0 < s.cfg.maxmsg ∧ ¬ isRevoltWave (captured s).hightime (captured s).lowtime

/-- The corners of the rows of the table (R150), from 95_test_vectors.md §3.4. -/
theorem witness_SyncDetectTable :
    ∀ p ∈ [(26, 531), (33, 562), (34, 540), (8, 156), (37, 1062), (25, 1063), (101, 0), (100, 100),
        (0, 0)],
      FacesWave (facing p.1 p.2 idle) Bucket.cleared ∧ Bucket.cleared.state = .reset ∧
        (captured (facing p.1 p.2 idle)).lowtime = BitVec.ofNat 16 p.2 := by decide +kernel

/-- A bucket in the sync train. -/
def syncing (n : Byte) (zero : Wave) : Bucket :=
  { Bucket.cleared with state := .sync, zero := zero, sync := n }

/-- A matching wave, also where the count wraps; a mismatch after 3 sync pulses (§3.5). -/
theorem witness_SyncTrainStep :
    (∀ n ∈ ([3, 255] : List Byte),
      FacesWave (facing 26 49 (receiving (syncing n ⟨25, 50⟩))) (syncing n ⟨25, 50⟩) ∧
        waveEquals ⟨25, 50⟩ 26 49 .sync = true) ∧
    FacesWave (facing 60 60 (receiving (syncing 3 ⟨25, 50⟩))) (syncing 3 ⟨25, 50⟩) ∧
    waveEquals ⟨25, 50⟩ 60 60 .sync = false := by decide +kernel

/-- The rows of the preamble table (R154) at their bounds: HMS at 12 pulses, ESA at 10, the router,
COLLECT at 4, at 11 and at 9 pulses (§3.5). -/
theorem witness_PreambleTable :
    (∀ p ∈ ([(12, ⟨62, 50⟩, 90), (11, ⟨62, 50⟩, 90), (10, ⟨15, 16⟩, 31), (9, ⟨15, 16⟩, 31),
        (4, ⟨25, 50⟩, 37)] : List (Nat × Wave × Nat)),
      let b := syncing (BitVec.ofNat 8 p.1) p.2.1
      FacesWave (facing p.2.2 p.2.2 (receiving b)) b ∧ 4 ≤ b.sync.toNat ∧
        waveEquals b.zero (BitVec.ofNat 16 p.2.2) (BitVec.ofNat 16 p.2.2) .sync = false) ∧
    (let b := syncing 4 ⟨25, 50⟩
      let formula := RouterSync.and (.within .hightime 30 40) (.not (.within .sync 0 3))
      let s := { facing 37 37 (receiving b) with cfg := { cfg0 with routerSync := formula } }
      FacesWave s b ∧ routerSyncHolds s.cfg b 37 37 = true ∧
        routerSyncHolds s.cfg b 41 37 = false ∧
        gives (exec .edgeRise s) (fun t => t.calls = [.rfRouterAccept b]) = true) := by
  decide +kernel

/-- The smallest and the largest wave of the open intervals (R158), in RESET and in COLLECT. -/
theorem witness_RevoltPreambleEntersRevolt :
    (isProducer (facing 563 10 idle) Bucket.cleared ∧
      isRevoltWave (captured (facing 563 10 idle)).hightime
        (captured (facing 563 10 idle)).lowtime) ∧
    (isProducer (facing 749 32 (receiving fs20Bucket)) fs20Bucket ∧ fs20Bucket.state ≠ .hms ∧
      fs20Bucket.state ≠ .esa ∧
      isRevoltWave (captured (facing 749 32 (receiving fs20Bucket))).hightime
        (captured (facing 749 32 (receiving fs20Bucket))).lowtime) := by decide +kernel

/-- A bucket in COLLECT with the references of §3.9. -/
def collecting : Bucket := { holding .collect [true] with zero := ⟨25, 50⟩, one := ⟨37, 37⟩ }

/-- A 1, a 0 and a mismatch (§3.9). -/
theorem witness_CollectStepOutcomes :
    collecting.state = .collect ∧
    (∀ p ∈ [(38, 36), (26, 49), (60, 10)], FacesWave (facing p.1 p.2 (receiving collecting)) collecting) ∧
    waveEquals collecting.one 38 36 .collect = true ∧
    waveEquals collecting.one 26 49 .collect = false ∧
    waveEquals collecting.zero 26 49 .collect = true ∧
    waveEquals collecting.one 60 10 .collect = false ∧
    waveEquals collecting.zero 60 10 .collect = false := by decide +kernel

/-- A bucket in IT with one bit and the references of §3.9. -/
def itWithBit : Bucket := { holding .it [false] with zero := ⟨21, 66⟩, one := ⟨66, 21⟩ }

/-- A 1, a 0 and an ignored wave (§3.9). -/
theorem witness_IntertechnoStepOutcomes :
    itWithBit.state = .it ∧ ¬ (itWithBit.byteIdx = 0 ∧ itWithBit.bitIdx = 7) ∧
    (∀ p ∈ [(64, 23), (21, 66), (40, 40)], FacesWave (facing p.1 p.2 (receiving itWithBit)) itWithBit) ∧
    waveEquals itWithBit.one 64 23 .it = true ∧ waveEquals itWithBit.one 21 66 .it = false ∧
    waveEquals itWithBit.zero 21 66 .it = true ∧ waveEquals itWithBit.one 40 40 .it = false ∧
    waveEquals itWithBit.zero 40 40 .it = false := by decide +kernel

/-- The first wave in IT and ITV3: the start marker at 151, and the waves at 150 and at the bounds
between the clauses (R185). -/
theorem witness_InitialEdgeOutcomes :
    ∀ st ∈ [BucketState.it, .itv3],
    ∀ p ∈ [(20, 151), (129, 150), (130, 150), (20, 41), (20, 40), (20, 22), (20, 21), (60, 20)],
      let b := { Bucket.cleared with state := st }
      FacesWave (facing p.1 p.2 (receiving b)) b ∧ b.byteIdx = 0 ∧ b.bitIdx = 7 ∧
        (captured (facing p.1 p.2 (receiving b))).lowtime = BitVec.ofNat 16 p.2 := by decide +kernel

/-- The bounds of the fixed thresholds (R186, R188, R189; §3.9). -/
theorem witness_FixedThresholdSteps :
    (∀ p ∈ [(15, 27), (15, 28)], let b := holding .itv3 [true]
      FacesWave (facing p.1 p.2 (receiving b)) b ∧ ¬ (b.byteIdx = 0 ∧ b.bitIdx = 7)) ∧
    (∀ l ∈ [110, 111, 139, 140, 230, 231, 269, 270], let b := holding .tcm97001 []
      FacesWave (facing 30 l (receiving b)) b) ∧
    (∀ h ∈ [10, 11], let b := holding .revolt []
      FacesWave (facing h 14 (receiving b)) b) ∧
    FacesWave (facing 30 50 (receiving (holding .init []))) (holding .init []) := by decide +kernel

/-- A bucket with room, and one with room for a single bit (§3.8). -/
theorem witness_ReceivedBitsAreStoredMsbFirst :
    legalConfig cfg0 ∧ BucketOk cfg0 fs20Bucket ∧ fs20Bucket.byteIdx.toNat < cfg0.maxmsg ∧
      BucketOk cfg0 (holding .collect (List.replicate 159 true)) ∧
      (holding .collect (List.replicate 159 true)).byteIdx.toNat < cfg0.maxmsg := by
  refine ⟨by decide +kernel, fs20Bucket_ok, by decide +kernel, ?_, by decide +kernel⟩
  constructor <;> decide +kernel

/-- A reference above, below and at its input. -/
theorem witness_AverageConvergesToItsInput :
    (28 : Half).toNat ≤ (40 : Half).toNat ∧ (20 : Half).toNat ≤ (28 : Half).toNat ∧
      (28 : Half).toNat ≤ (28 : Half).toNat := by decide

theorem witness_PollTakesABucketExactlyWhenOneIsCommitted :
    idle.nrUsed = 0 ∧ working.nrUsed ≠ 0 ∧ gives (exec .taskPoll working) (fun _ => true) = true := by
  decide +kernel

/-- An FHT frame of three items and the first four bits of a fourth group. -/
def shortFhtBucket : Bucket :=
  holding .collect (fs20Stream [0x11, 0x22, 0x3F] ++ [false, true, true, true])

/-- The bits of the incomplete group are ignored (R223): `obuf[3]` is 0 (R264), so the frame is no
synthetic repeat. -/
theorem test_incomplete_group_is_ignored :
    gives (exec .taskPoll (committedWith shortFhtBucket)) (fun t =>
      t.datatype = some .fht && t.oby = 3 && Memory.read t.obuf 3 = 0 && !t.isRep &&
        t.packageOK) = true := by decide +kernel

/-- A poll that classifies, one whose analyzer is disabled, and one that finds no datatype. -/
theorem witness_PollReleasesOneBucket :
    (Inv working ∧ working.nrUsed ≠ 0 ∧ isConsumer working fs20Bucket) ∧
      gives (exec .taskPoll working) (fun t => t.datatype = some .fs20) = true ∧
      gives (exec .taskPoll { working with cfg := { cfg0 with enabled := [.hms] } })
        (fun t => t.datatype = none) = true :=
  ⟨⟨working_inv, by decide +kernel, by decide +kernel⟩, by decide +kernel, by decide +kernel⟩

/-- 24 zero bits in COLLECT (§3.11). -/
theorem witness_UnclassifiedFrameIsDropped :
    let s := committedWith (holding .collect (List.replicate 24 false))
    s.nrUsed ≠ 0 ∧ gives (exec .taskPoll s) (fun t => t.datatype = none) = true := by decide +kernel

/-- Two machines that differ in their scratch and their filter. -/
theorem witness_ClassifierIsDeterminedByBucketAndHightime :
    let s₁ := committedWith fs20Bucket
    let s₂ := { s₁ with obuf := [(3, 7)], oby := 4, nibble := true, roby := 2, ticks := 9 }
    s₁.cfg = s₂.cfg ∧ s₁.hightime = s₂.hightime ∧ isConsumer s₁ fs20Bucket ∧
      isConsumer s₂ fs20Bucket ∧ s₁.nrUsed ≠ 0 ∧ s₂.nrUsed ≠ 0 ∧
      gives (exec .taskPoll s₁) (fun t => t.datatype = some .fs20) = true ∧
      gives (exec .taskPoll s₂) (fun t => t.datatype = some .fs20) = true := by decide +kernel

/-- A TCM97001 bucket of 24 bits, one of 23, and a bucket in another state (§3.12.2). -/
theorem witness_TcmFrameIsCopiedVerbatim :
    let tcm := holding .tcm97001 ([0x9A, 0x0C, 0x31].flatMap msbBits)
    legalConfig cfg0 ∧ (tcm.state = .tcm97001 ∧ tcm.byteIdx = 3 ∧ tcm.bitIdx = 7) ∧
    (holding .tcm97001 (List.replicate 23 true)).byteIdx = 2 ∧
    itBucket.state ≠ .tcm97001 := by decide +kernel

/-- Both lengths of Intertechno and a wrong one (§3.12.1), a bucket in another state, the Revolt frame
of §3.12.3, and the one with the wrong sum. -/
theorem witness_ItAndRevoltFramesAreCopiedVerbatim :
    let v3 := holding .itv3 (List.replicate 64 true)
    legalConfig cfg0 ∧
    (itBucket.state = .it ∧ itBucket.byteIdx = 3 ∧ itBucket.bitIdx = 7) ∧
    (v3.state = .itv3 ∧ v3.byteIdx = 8 ∧ v3.bitIdx = 7) ∧
    (holding .it (List.replicate 25 true)).bitIdx ≠ 7 ∧
    (fs20Bucket.state ≠ .it ∧ fs20Bucket.state ≠ .itv3 ∧ fs20Bucket.state ≠ .tcm97001 ∧
      fs20Bucket.state ≠ .revolt) ∧
    ∀ p ∈ ([(0x0B, true), (0x0C, false)] : List (Byte × Bool)),
      let b := holding .revolt
        ((List.replicate 11 0x01 ++ [p.1]).flatMap msbBits ++ List.replicate 7 false)
      b.state = .revolt ∧ b.byteIdx = 12 ∧ b.bitIdx = 0 ∧
        decide (((List.range 11).map fun i => (Memory.read b.data i).toNat).sum % 256 =
          (Memory.read b.data 11).toNat) = p.2 := by decide +kernel

/-- The ESA frames of §3.12.4, with the right and the wrong trailer; one of a bit less, and one in
another state. -/
theorem witness_EsaFrameIsDecipheredAndChecked :
    legalConfig cfg0 ∧
    (∀ lo ∈ ([0x10, 0x11] : List Byte),
      let raw : List Byte := List.replicate 15 0
      let b := holding .esa ((raw ++ [0x10, 0x00, lo]).flatMap msbBits)
      b.state = .esa ∧ raw.length = 15 ∧
        streamOf b = (raw ++ [0x10, 0x00, lo]).flatMap msbBits) ∧
    (holding .esa (List.replicate 143 true)).bitCount ≠ 8 * 15 + 24 ∧
    (holding .collect (List.replicate 144 true)).state ≠ .esa := by decide +kernel

/-- The trailers `c6`, `c6 + 1`, `c12` and another, and the frame of a single byte (§3.12.5). -/
theorem witness_Fs20TrailerDecidesTheFrame :
    (∀ trailer ∈ ([0x53, 0x54, 0x59, 0x55] : List Byte),
      let b := holding .collect (fs20Stream ([0x10, 0x22, 0x10, 0x0B] ++ [trailer]) ++
        [true, false, true])
      legalConfig cfg0 ∧ b.bitCount ≤ 8 * cfg0.maxmsg ∧
        streamOf b = fs20Stream ([0x10, 0x22, 0x10, 0x0B] ++ [trailer]) ++ [true, false, true]) ∧
    streamOf (holding .collect (fs20Stream ([] ++ [0x06]))) = fs20Stream ([] ++ [0x06]) ++ [] := by
  decide +kernel

/-- The first parity bit inverted (§3.12.5), and a bucket of 8 bits. -/
theorem witness_Fs20WrongParityFails :
    let bits := fs20Stream [] ++ msbBits 0x10 ++ [!oddOnes 0x10] ++ fs20Stream [0x22, 0x10]
    legalConfig cfg0 ∧ (holding .collect bits).bitCount ≤ 8 * cfg0.maxmsg ∧
      streamOf (holding .collect bits) = bits ∧
      (holding .collect (List.replicate 8 true)).bitCount ≤ 8 := by decide +kernel

/-- The EM frame of §3.12.6, with and without the last stop bit, and with the wrong XOR byte; nine and
eleven bytes; ten bytes and seven further bits; a stop bit 0. -/
theorem witness_EmFrameIsReadBack :
    let nine : List Byte := [0, 1, 2, 3, 4, 5, 6, 7, 0xAB]
    let more := emStream (nine ++ [0xAB]) ++ List.replicate 7 true
    let bad := emStream [0] ++ lsbBits 0x10 ++ [false] ++ [true, true]
    legalConfig cfg0 ∧
    (∀ p ∈ ([(nine ++ [0xAB], []), (nine, [0xAB]), (nine, [0xAA]), (nine, []), (nine ++ [0xAB], [0]),
        ([], []), ([], [1])] : List (List Byte × List Byte)),
      let bits := emStream p.1 ++ p.2.flatMap lsbBits
      (holding .collect bits).bitCount ≤ 8 * cfg0.maxmsg ∧
        streamOf (holding .collect bits) = bits) ∧
    (holding .collect more).bitCount ≤ 8 * cfg0.maxmsg ∧ streamOf (holding .collect more) = more ∧
    (holding .collect bad).bitCount ≤ 8 * cfg0.maxmsg ∧ streamOf (holding .collect bad) = bad := by
  decide +kernel

/-- The HMS frame of §3.12.7, with extra bits, with the wrong CRC, with a wrong parity and with a
literal 1; and a bucket of 68 bits. -/
theorem witness_HmsFrameIsReadBack :
    let group (v : Byte) : Byte × Bool × Bool := (v, oddOnes v, false)
    let rest := [2, 4, 8, 0x10, 0x20].map group
    legalConfig cfg0 ∧
    (∀ p ∈ ([(group 1, 0x3F, []), (group 1, 0x3F, [true, true]), (group 1, 0x3E, []),
        ((1, false, false), 0x3F, []), ((1, true, true), 0x3F, [])] :
        List ((Byte × Bool × Bool) × Byte × List Bool)),
      let bits := hmsStream (p.1 :: rest) ++ msbBits p.2.1 ++ [oddOnes p.2.1] ++ p.2.2
      (p.1 :: rest).length = 6 ∧ (holding .hms bits).bitCount ≤ 8 * cfg0.maxmsg ∧
        streamOf (holding .hms bits) = bits) ∧
    (holding .hms (List.replicate 68 true)).bitCount < 69 := by decide +kernel

/-- The TX3 frames of §3.12.8: accepted, a wrong sum, a wrong first nibble; and a bucket of 37 bits. -/
theorem witness_Tx3FrameIsReadBack :
    let bits (v0 v4 : Byte) := (msbBits v0).drop 1 ++ msbBits 0x23 ++ msbBits 0x45 ++ msbBits 0x67 ++
      (msbBits v4).take 7
    let meets (v0 v4 : Byte) := v0.getLsbD 7 = true ∧ v4.getLsbD 0 = false ∧
      (holding .collect (bits v0 v4)).byteIdx = 4 ∧ (holding .collect (bits v0 v4)).bitIdx = 1 ∧
      streamOf (holding .collect (bits v0 v4)) = bits v0 v4
    meets 0xA1 0x06 ∧ meets 0xA1 0x08 ∧ meets 0xB1 0x06 ∧
      ¬ ((holding .collect (List.replicate 37 true)).byteIdx = 4 ∧
        (holding .collect (List.replicate 37 true)).bitIdx = 1) :=
  ⟨by decide +kernel, by decide +kernel, by decide +kernel, by decide +kernel⟩

/-- The KS300 frames of §3.12.9: five nibbles, nine nibbles, nine with wrong checks, and two, too few to
check, each closed by a projected bit 1; a half byte dropped by a further bit; no whole nibble; and a
projected bit 0 in the place of the last separator. -/
theorem witness_Ks300FrameIsReadBack :
    let closed (q : List (BitVec 4)) : Bucket :=
      { holding .collect (ks300Stream q).dropLast with one := ⟨25, 50⟩ }
    let stream (hightime : Half) (b : Bucket) :=
      streamOf b ++ [waveEquals b.one hightime b.one.low b.state]
    legalConfig cfg0 ∧
    (∀ q ∈ ([[1, 2, 3, 0, 0xB], [1, 8, 2, 1, 4, 3, 5, 8, 5], [1, 8, 2, 1, 4, 3, 5, 0, 6], [1, 2]] :
        List (List (BitVec 4))),
      (closed q).bitCount ≤ 8 * cfg0.maxmsg ∧ stream 25 (closed q) = ks300Stream q ++ []) ∧
    stream 40 (holding .collect (ks300Stream [1, 2, 3])) = ks300Stream [1, 2, 3] ++ [false] ∧
    stream 40 (holding .collect [true, true]) = ks300Stream [] ++ [true, true, false] ∧
    stream 40 (closed [1, 2]) = ks300Stream [1] ++ nibbleLsbBits 2 ++ [false] ++ [] := by
  decide +kernel

/-- The Hörmann frame of §3.12.10, with a projected bit 1 and 0; another length, and another `zero`. -/
theorem witness_HoermannFrameIsReadBack :
    let bits := [0x12, 0x34, 0x56, 0x78].flatMap msbBits ++ [true, false, true]
    let b := { holding .collect bits with zero := ⟨60, 30⟩, one := ⟨30, 60⟩ }
    legalConfig cfg0 ∧ b.byteIdx = 4 ∧ b.bitIdx = 4 ∧ waveEquals b.zero 60 30 b.state = true ∧
      streamOf b = bits ∧ waveEquals b.one 30 b.one.low b.state = true ∧
      waveEquals b.one 42 b.one.low b.state = false ∧
      (holding .collect (List.replicate 36 true)).bitIdx ≠ 4 ∧
      waveEquals ⟨72, 30⟩ 60 30 .collect = false := by decide +kernel

/-- A classified frame in the scratch, before the deduplicator. -/
def classified (dt : Datatype) : State :=
  { idle with
    obuf := [(0, 0x11), (1, 0x22), (2, 0x4B), (3, 0x01), (4, 0x8B)], oby := 5
    datatype := some dt, txReport := 1, ticks := 100 }

theorem witness_EveryClassifiedFrameBecomesTheFilter :
    Inv working ∧ working.nrUsed ≠ 0 ∧
      gives (exec .taskPoll working) (fun t => decide (t.datatype = some .fs20)) = true :=
  ⟨working_inv, by decide +kernel, by decide +kernel⟩

/-- A new frame, its repeat within the window, one out of it, and the FHT control frame of §3.13. -/
theorem witness_DedupOutcome :
    (classified .it).configured ∧ ScratchOk (classified .it) ∧
    answers (dedup .it (classified .it)) (fun t => !t.isRep && !t.packageOK &&
      answers (dedup .it { t with ticks := 137 }) (fun u => u.isRep && u.packageOK) &&
      answers (dedup .it { t with ticks := 138 }) (fun u => !u.isRep)) = true ∧
    answers (dedup .fht (classified .fht)) (fun t => t.isRep) = true :=
  ⟨by decide +kernel, ⟨by decide +kernel, by decide +kernel, by decide +kernel, by decide +kernel⟩,
    by decide +kernel, by decide +kernel⟩

theorem witness_TwoOfTwoConfirmation :
    ∃ t₁ t₂ t₃, (classified .it).configured ∧ ScratchOk (classified .it) ∧
      (classified .it).txReport.getLsbD 1 = false ∧ (classified .it).isNotRep = false ∧
      (37 : Word).toNat < (classified .it).cfg.reptime.toNat ∧
      dedup .it (classified .it) = .ok t₁ ∧ t₁.isRep = false ∧
      dedup .it { t₁ with ticks := t₁.ticks + 37 } = .ok t₂ ∧
      dedup .it { t₂ with ticks := t₂.ticks + 37 } = .ok t₃ :=
  ⟨_, _, _, by decide +kernel,
    ⟨by decide +kernel, by decide +kernel, by decide +kernel, by decide +kernel⟩,
    by decide +kernel, by decide +kernel, by decide +kernel, rfl, by decide +kernel, rfl, rfl⟩

/-- An accepted frame with a half byte at the last index the arrays have, and a dropped one. -/
theorem witness_FrameLineIsEmitted :
    let s := { classified .ks300 with oby := 19, nibble := true, packageOK := true }
    s.configured ∧ ScratchOk s ∧ s.packageOK = true ∧ s.txReport.getLsbD 0 = true ∧
      (classified .ks300).packageOK = false :=
  ⟨by decide +kernel, ⟨by decide +kernel, by decide +kernel, by decide +kernel, by decide +kernel⟩,
    rfl, by decide +kernel, rfl⟩

/-- An FS20 frame polled with REP_KNOWN clear. -/
theorem witness_NoFrameLineWithoutRepKnown :
    let s := { working with txReport := 0xFE }
    s.txReport.getLsbD 0 = false ∧
      gives (exec .taskPoll s) (fun t => t.datatype = some .fs20 && t.packageOK) = true := by
  decide +kernel

/-- The FHT frame of §3.12.5, and an FS20 frame. -/
theorem witness_FhtHookForEveryFhtFrame :
    let s := committedWith (holding .collect (fs20Stream [0x10, 0x22, 0x10, 0x0B, 0x59]))
    s.nrUsed ≠ 0 ∧ working.nrUsed ≠ 0 ∧
      gives (exec .taskPoll s) (fun t => t.datatype = some .fht &&
        t.calls = [.fhtHook [0x10, 0x22, 0x10, 0x0B, 0x59]]) = true ∧
      gives (exec .taskPoll working) (fun t => t.datatype = some .fs20) = true := by decide +kernel

/-- All three unread bits differ, in a poll and in a hardware reset. -/
theorem witness_DebugFlagsHaveNoEffect :
    (0x99 : Byte) &&& 0x67 = working.txReport &&& 0x67 ∧ (∀ imm, Instr.taskPoll ≠ .configure imm) ∧
      gives (exec .taskPoll working) (fun t => t.sink.length = 13) = true ∧
      gives (exec .hwReset working) (fun t => t.txReport = 0) = true :=
  ⟨by decide +kernel, fun _ => by simp, by decide +kernel, by decide +kernel⟩

/-- A bucket in progress and one at rest. -/
theorem witness_ConfigureReentersReceive :
    isProducer (receiving fs20Bucket) fs20Bucket ∧ isProducer idle Bucket.cleared := by decide +kernel

theorem witness_RxResetReentersReceive :
    isProducer (receiving fs20Bucket) fs20Bucket ∧ isProducer idle Bucket.cleared :=
  witness_ConfigureReentersReceive

end Sys2Proof.Tests
end

