-- ==== Sys2Proof/Proofs/BitStorage.lean ====
section
/-! PROOF. Where a received bit is stored (R73): the byte and the bit of its stream position, the bytes
it leaves alone, and the stream it extends. -/

namespace Sys2Proof.Machine

/-- The number of bits held names the byte at the cursor (R41, R73). -/
theorem Bucket.bitCount_div_eight (b : Bucket) : b.bitCount / 8 = b.byteIdx.toNat :=
  ((bitCount_iff b b.bitCount).2 rfl).1

/-- The bit write touches the byte at the cursor only (R73, R180). -/
theorem read_bitWritten_of_ne {bound : Nat} {b : Bucket} (hw : Memory.wf bound b.data) (bit : Bool)
    {j : Nat} (hj : j ≠ b.byteIdx.toNat) :
    Memory.read (bitWritten b bit) j = Memory.read b.data j := by
  cases bit with
  | false => rfl
  | true => exact (Memory.read_write hw _ _ _).trans (if_neg hj)

/-- A bucket that holds one bit more, and differs only at that bit's position, holds the stream grown
by that bit (R214). -/
theorem streamOf_eq_append {b b' : Bucket} {bit : Bool} (hcount : b'.bitCount = b.bitCount + 1)
    (hbits : ∀ k, bucketBit b' k = if k = b.bitCount then bit else bucketBit b k) :
    streamOf b' = streamOf b ++ [bit] := by
  have hnew : bucketBit b' b.bitCount = bit := (hbits _).trans (if_pos rfl)
  have hold : ∀ k ∈ List.range b.bitCount, bucketBit b' k = bucketBit b k := fun k hk =>
    (hbits k).trans (if_neg (List.mem_range.1 hk).ne)
  calc streamOf b'
      = (List.range b.bitCount).map (bucketBit b') ++ [bucketBit b' b.bitCount] := by
        simp [streamOf, hcount, List.range_succ]
    _ = streamOf b ++ [bit] := by rw [List.map_congr_left hold, hnew, streamOf]

/-- Settles O33: the bit write of a sound bucket with room (`pushBit_spec`) puts the bit at stream
position `b.bitCount`, which lies in the byte at the cursor. -/
theorem receivedBitsAreStoredMsbFirst : Obligations.ReceivedBitsAreStoredMsbFirst := by
  intro cfg b bit hlegal hb hroom
  obtain ⟨-, -, -, hmax, -⟩ := hlegal
  obtain ⟨b', hpush, hframe, hdata, hwf, hcount, -, hbits, -⟩ := pushBit_spec hmax hb bit hroom
  have hstored : bucketBit b' b.bitCount = bit := (hbits _).trans (if_pos rfl)
  have hothers : ∀ j, j ≠ b.bitCount / 8 → Memory.read b'.data j = Memory.read b.data j := by
    intro j hj
    rw [hdata]
    exact read_bitWritten_of_ne hb.dataWf bit (b.bitCount_div_eight ▸ hj)
  exact ⟨b', hpush, hcount, hstored, streamOf_eq_append hcount hbits, hothers, hwf, hframe⟩

end Sys2Proof.Machine
end

