-- ==== Sys2Proof/Proofs/BucketRing.lean ====
section
/-! PROOF. What a poll does to the ring's counter (R139): an empty ring is left as it is, and a poll
that completes on a committed bucket releases one. -/

namespace Sys2Proof.Machine

/-- The meaning of TASK_POLL is the poll handler run to completion (R91, R210). -/
theorem exec_taskPoll (s : State) : exec .taskPoll s = complete (pollHandler s) := rfl

/-- "The consumer returns immediately when nrUsed==0" (R139). -/
theorem pollHandler_of_empty {s : State} (h : s.nrUsed = 0) : pollHandler s = .ok s := if_pos h

/-- The hook, the deduplicator and the emitter leave the ring's counter alone (R210). -/
theorem deliver_nrUsed {dt : Datatype} {s t : State} (h : deliver dt s = .ok t) :
    t.nrUsed = s.nrUsed := by
  rw [(deliver_frame h).rest]

/-- `Release` takes one bucket off a ring that holds any; the counter does not wrap (R134). -/
theorem release_nrUsed_add_one {s : State} (h : s.nrUsed ≠ 0) :
    (release s).nrUsed.toNat + 1 = s.nrUsed.toNat := by
  rw [release_nrUsed]
  bv_omega

/-- Settles O36: an empty ring answers at once; with a committed bucket both remaining outcomes of a
poll (`pollHandler_cases`) end in `release` of a state whose counter is still that of `s`. -/
theorem pollTakesABucketExactlyWhenOneIsCommitted :
    Obligations.PollTakesABucketExactlyWhenOneIsCommitted := by
  intro s
  constructor
  · intro hempty
    rw [exec_taskPoll, pollHandler_of_empty hempty, complete_ok]
  · intro hused t hpoll
    cases pollHandler_cases (complete_eq_next.1 hpoll) with
    | empty hempty => exact absurd hempty hused
    | fail b a => exact release_nrUsed_add_one hused
    | frame b a dt u _ _ _ _ hdeliver =>
      have hkept : u.nrUsed = s.nrUsed := (deliver_nrUsed hdeliver).trans (setScratch_nrUsed a s)
      rw [← hkept]
      exact release_nrUsed_add_one (hkept ▸ hused)

end Sys2Proof.Machine
end

