-- ==== Sys2Proof/Proofs/FrameAnalyzers.lean ====
section
/-! PROOF. The analyzers that copy the bucket's bytes verbatim (R213, R218): what an accepted payload
leaves in the scratch, and the three answers of the TCM97001 analyzer. -/

namespace Sys2Proof.Machine

/-- An accepted payload that fits stands in `obuf` from index 0 on, with 0 beyond it (R213). -/
theorem acceptBytes_of_le {cfg : Config} {bytes : List Byte} (dt : Datatype)
    (h : bytes.length ≤ cfg.maxmsg) :
    ∃ obuf, acceptBytes cfg dt bytes = .ok ⟨⟨obuf, BitVec.ofNat 8 bytes.length, false⟩, some dt⟩ ∧
      ∀ j, Memory.read obuf j = bytes.getD j 0 := by
  obtain ⟨obuf, hfill, -, hread⟩ := memFill_of_le (Memory.wf_nil cfg.maxmsg) 0 bytes (by omega)
  refine ⟨obuf, by simp only [acceptBytes, hfill, ok_bind], fun j => ?_⟩
  by_cases hj : j < bytes.length <;> simp [hread, hj]

/-- Accepting the first `n` bytes of a memory copies them (R217 to R219). -/
theorem acceptBytes_memSlice {cfg : Config} {n : Nat} (dt : Datatype) (m : Memory)
    (h : n ≤ cfg.maxmsg) :
    ∃ obuf, (memSlice cfg m n >>= acceptBytes cfg dt) =
        .ok ⟨⟨obuf, BitVec.ofNat 8 n, false⟩, some dt⟩ ∧
      ∀ j, Memory.read obuf j = if j < n then Memory.read m j else 0 := by
  have hlen : ((List.range n).map (Memory.read m)).length = n := by simp
  obtain ⟨obuf, haccept, hread⟩ := acceptBytes_of_le dt (hlen.trans_le h)
  refine ⟨obuf, ?_, fun j => ?_⟩
  · rw [memSlice_of_le m h, ok_bind, haccept, hlen]
  · by_cases hj : j < n <;> simp [hread, hj]

/-- The gate of TCM97001 is the bucket's state (R218). -/
theorem analyzeTcm_of_ne {b : Bucket} (cfg : Config) (sc : Scratch) (h : b.state ≠ .tcm97001) :
    analyzeTcm cfg b sc = .ok ⟨sc, none⟩ := if_neg h

/-- A TCM97001 bucket of another length than 24 bits fails with the scratch cleared (R213, R218). -/
theorem analyzeTcm_of_wrong_length {b : Bucket} (cfg : Config) (sc : Scratch)
    (hstate : b.state = .tcm97001) (hlen : ¬ (b.byteIdx = 3 ∧ b.bitIdx = 7)) :
    analyzeTcm cfg b sc = .ok ⟨clearedScratch, none⟩ := (if_pos hstate).trans (if_neg hlen)

/-- A TCM97001 bucket of 24 bits is accepted with its three bytes (R218). -/
theorem analyzeTcm_of_24_bits {b : Bucket} (cfg : Config) (sc : Scratch)
    (hstate : b.state = .tcm97001) (hlen : b.byteIdx = 3 ∧ b.bitIdx = 7) :
    analyzeTcm cfg b sc = memSlice cfg b.data 3 >>= acceptBytes cfg .tcm97001 :=
  (if_pos hstate).trans (if_pos hlen)

/-- Settles O40: a TCM97001 bucket of 24 bits has its three bytes copied (`acceptBytes_memSlice`), for
every legal configuration has room for them; any other bucket fails at the gate or for its length. -/
theorem tcmFrameIsCopiedVerbatim : Obligations.TcmFrameIsCopiedVerbatim := by
  intro cfg b sc hlegal
  split
  case isTrue h =>
    obtain ⟨hstate, hlen⟩ := h
    obtain ⟨-, -, hmin, -⟩ := hlegal
    obtain ⟨obuf, hcopy, hread⟩ :=
      acceptBytes_memSlice (n := 3) .tcm97001 b.data (by omega : 3 ≤ cfg.maxmsg)
    exact ⟨_, (analyzeTcm_of_24_bits cfg sc hstate hlen).trans hcopy, rfl, rfl,
      fun j hj => (hread j).trans (if_pos hj)⟩
  case isFalse h =>
    by_cases hstate : b.state = .tcm97001
    · exact ⟨_, analyzeTcm_of_wrong_length cfg sc hstate fun hlen => h ⟨hstate, hlen⟩⟩
    · exact ⟨_, analyzeTcm_of_ne cfg sc hstate⟩

end Sys2Proof.Machine
end

