-- ==== Sys2Proof/Proofs/DedupEmitter.lean ====
section
/-! PROOF. What a poll with a committed bucket does to a classified frame (R210): one pass through the
deduplicator, which makes it the filter's content (R262), then one through the emitter. -/

namespace Sys2Proof.Machine

/-! ### The deduplicator and the emitter -/

/-- A frame within its arrays becomes the filter's content, repeat or not, accepted or dropped
(R262). -/
theorem dedup_replaces_filter {dt : Datatype} {s t : State} (hlegal : s.configured)
    (hitems : itemCount s ≤ s.cfg.maxmsg) (h : dedup dt s = .ok t) :
    t.robuf = t.obuf ∧ t.roby.toNat = t.oby.toNat + t.nibble.toNat := by
  obtain ⟨-, -, -, hmax, -⟩ := hlegal
  obtain ⟨rep, -, rfl⟩ := dedup_shape h
  have hfits : itemCount s < 2 ^ 8 := by omega
  have hcount : (BitVec.ofNat 8 (itemCount s)).toNat = s.oby.toNat + s.nibble.toNat :=
    Nat.mod_eq_of_lt hfits
  constructor
  · simp
  · simpa only [noteDuplicate_roby, decidePackage_roby, replaceFilter_roby, noteDuplicate_oby,
      decidePackage_oby, replaceFilter_oby, noteDuplicate_nibble, decidePackage_nibble,
      replaceFilter_nibble] using hcount

/-- Outside IT and TCM97001 a frame is accepted exactly when it is no repeat (R266). -/
theorem dedup_packageOK_eq_not_isRep {dt : Datatype} {s t : State} (hit : dt ≠ .it)
    (htcm : dt ≠ .tcm97001) (h : dedup dt s = .ok t) : t.packageOK = !t.isRep := by
  obtain ⟨rep, -, rfl⟩ := dedup_shape h
  simp [needsConfirmation, hit, htcm]

/-- The deduplicator leaves the frame it judges, and the calls made before it, as they are (R260). -/
theorem dedup_keeps_frame {dt : Datatype} {s t : State} (h : dedup dt s = .ok t) :
    t.obuf = s.obuf ∧ t.oby = s.oby ∧ t.nibble = s.nibble ∧ t.datatype = s.datatype ∧
      t.calls = s.calls := by
  obtain ⟨rep, -, rfl⟩ := dedup_shape h
  simp

/-- Delivery is one `dedup` after the collaborator call, then one `emitFrame`, which writes the sink
alone; the state after `dedup` names the calls made before it (R210). -/
theorem deliver_passes {dt : Datatype} {s v : State} (h : deliver dt s = .ok v) :
    ∃ u bytes, dedup dt { s with calls := u.calls } = .ok u ∧ emitFrame dt u = .ok v ∧
      v = { u with sink := bytes } := by
  obtain ⟨hooked, hhook, h⟩ := bind_eq_ok.1 h
  obtain ⟨u, hdedup, hemit⟩ := bind_eq_ok.1 h
  obtain ⟨-, -, -, -, hcalls⟩ := dedup_keeps_frame hdedup
  have hhooked : hooked = { s with calls := u.calls } := by
    rw [hcalls, callFhtHook_frame hhook]
  exact ⟨u, v.sink, hhooked ▸ hdedup, hemit, emitFrame_frame hemit⟩

/-! ### The poll -/

/-- A ring that holds a bucket has a sound one at its consumer index (R136, R137). -/
theorem RingOk.exists_consumer {s : State} (h : RingOk s) (hused : s.nrUsed ≠ 0) :
    ∃ b, isConsumer s b ∧ BucketOk s.cfg b := by
  have hpos : 0 < s.nrUsed.toNat := by bv_omega
  obtain ⟨b, hb, -⟩ := h.committed 0 hpos
  have hindex : ringIndex s 0 = s.outIdx.toNat := Nat.mod_eq_of_lt h.outRange
  rw [hindex] at hb
  exact ⟨b, hb, h.bucketsOk b (List.mem_of_getElem? hb)⟩

/-- The analyzers answer on the bucket a poll takes, with a scratch within its arrays (R212, R213). -/
theorem Inv.exists_analysis {s : State} (h : Inv s) (hused : s.nrUsed ≠ 0) :
    ∃ b a, isConsumer s b ∧
      runAnalyzers s.cfg s.hightime b analyzerOrder (scratchOf s) = .ok a ∧
      ScratchOk (setScratch a s) := by
  obtain ⟨b, hb, hsound⟩ := h.ring.exists_consumer hused
  have hfits : ScratchFits s.cfg (scratchOf s) := ⟨h.scratch.obufWf, h.scratch.items⟩
  obtain ⟨a, hrun, ⟨hwf, hitems⟩, -⟩ :=
    runAnalyzers_fits h.legal s.hightime b hsound analyzerOrder _ hfits
  exact ⟨b, a, hb, hrun, hwf, h.scratch.robufWf, hitems, h.scratch.filterItems⟩

/-- A poll whose analyzers all fail reports it and releases the bucket (R210). -/
theorem pollHandler_of_rejected {s : State} {b : Bucket} {a : Analysis} (hused : s.nrUsed ≠ 0)
    (hb : isConsumer s b)
    (hrun : runAnalyzers s.cfg s.hightime b analyzerOrder (scratchOf s) = .ok a)
    (hv : a.verdict = none) :
    pollHandler s = .ok (release (raise (.checkFail s.outIdx) (setScratch a s))) := by
  simp only [pollHandler, if_neg hused, consumer_ok.2 hb, hrun, hv, ok_bind, setScratch_outIdx]

/-- A poll that classifies the bucket delivers the frame, then releases the bucket (R210). -/
theorem pollHandler_of_accepted {s v : State} {b : Bucket} {a : Analysis} {dt : Datatype}
    (hused : s.nrUsed ≠ 0) (hb : isConsumer s b)
    (hrun : runAnalyzers s.cfg s.hightime b analyzerOrder (scratchOf s) = .ok a)
    (hv : a.verdict = some dt) (hdeliver : deliver dt (setScratch a s) = .ok v) :
    pollHandler s = .ok (release v) := by
  simp only [pollHandler, if_neg hused, consumer_ok.2 hb, hrun, hv, hdeliver, ok_bind]

/-- Settles O50: the analyzers answer (`Inv.exists_analysis`). Where they fail no datatype is left; where
they accept, the frame passes one `dedup` and one `emitFrame` (`deliver_passes`), which keep the frame,
and the filter and the flags are those of that `dedup`. -/
theorem everyClassifiedFrameBecomesTheFilter :
    Obligations.EveryClassifiedFrameBecomesTheFilter := by
  intro s hinv hused
  obtain ⟨b, a, hb, hrun, hscratch⟩ := hinv.exists_analysis hused
  cases hv : a.verdict with
  | none =>
    refine ⟨_, complete_eq_next.2 (pollHandler_of_rejected hused hb hrun hv), fun dt hdt => ?_⟩
    simp [hv] at hdt
  | some found =>
    obtain ⟨v, hdeliver, -⟩ := deliver_total (s := setScratch a s) hinv.legal hscratch
    refine ⟨release v,
      complete_eq_next.2 (pollHandler_of_accepted hused hb hrun hv hdeliver), fun dt hdt => ?_⟩
    obtain ⟨u, bytes, hdedup, hemit, rfl⟩ := deliver_passes hdeliver
    obtain ⟨hobuf, hoby, hnibble, hdatatype, -⟩ := dedup_keeps_frame hdedup
    obtain ⟨hrobuf, hroby⟩ := dedup_replaces_filter
      (s := { setScratch a s with calls := u.calls }) hinv.legal hscratch.items hdedup
    obtain rfl : found = dt := Option.some.inj ((hdatatype.trans hv).symm.trans hdt)
    have hreaches : { s with
        obuf := u.obuf, oby := u.oby, nibble := u.nibble, datatype := u.datatype
        calls := u.calls } = { setScratch a s with calls := u.calls } := by
      rw [hobuf, hoby, hnibble, hdatatype]
      rfl
    have haccepted (hit : found ≠ .it) (htcm : found ≠ .tcm97001) : u.packageOK = !u.isRep :=
      dedup_packageOK_eq_not_isRep hit htcm hdedup
    exact ⟨hrobuf, hroby, haccepted,
      u, _, (congrArg (dedup found) hreaches).trans hdedup, hemit, rfl, rfl, rfl, rfl, rfl, rfl, rfl⟩

end Sys2Proof.Machine
end

/-! ## PROOF. The encoding (R90 to R98): decoding is the inverse of encoding, and the refusals are the
procedure's. -/

namespace Sys2Proof

/-! ### The fields of a word in numbers -/

theorem fieldOp_toNat (w : Word) : (fieldOp w).toNat = w.toNat / 2 ^ 24 := by
  have : w.toNat < 2 ^ 32 := w.isLt
  rw [fieldOp, BitVec.extractLsb'_toNat, Nat.shiftRight_eq_div_pow]
  omega

theorem fieldRsv_toNat (w : Word) : (fieldRsv w).toNat = w.toNat / 2 ^ 16 % 2 ^ 8 := by
  rw [fieldRsv, BitVec.extractLsb'_toNat, Nat.shiftRight_eq_div_pow]

theorem fieldImm_toNat (w : Word) : (fieldImm w).toNat = w.toNat % 2 ^ 16 := by
  rw [fieldImm, BitVec.extractLsb'_toNat, Nat.shiftRight_zero]

theorem Opcode.toByte_toNat_mem (op : Opcode) :
    op.toByte.toNat ∈ [1, 2, 3, 4, 5, 6, 7, 8, 9, 10] := by
  cases op <;> decide

/-- The reserved opcodes (R95) are the bytes outside the table of R91. -/
theorem opcodeOfByte_eq_none (b : Byte) :
    opcodeOfByte b = none ↔ b.toNat ∉ [1, 2, 3, 4, 5, 6, 7, 8, 9, 10] := by
  decide +revert

/-! ### Events and their fields -/

/-- An opcode with an admitted operand stands for the one well-formed event that has both (R92). -/
theorem eventOf_eq_iff (op : Opcode) (imm : Half) (i : Instr) :
    operandOk op imm = true ∧ eventOf op imm = i ↔
      i.wf = true ∧ i.opcode = op ∧ i.imm = imm := by
  constructor
  · rintro ⟨hok, rfl⟩
    cases op <;> simp_all [operandOk, eventOf, Instr.wf, Instr.opcode, Instr.imm]
  · rintro ⟨hwf, rfl, rfl⟩
    cases i <;> simp_all [operandOk, eventOf, Instr.wf, Instr.opcode, Instr.imm]

/-- Settles O1: both sides say that the fields of the word are the opcode of `i`, 0 and the operand of
`i` (`decode_eq_ok`, `word_eq_fields`), and that the operand is admitted. -/
theorem decodeAgreesWithEncode : Obligations.DecodeAgreesWithEncode := by
  intro w i
  rw [decode_eq_ok, encode, word_eq_fields]
  constructor
  · rintro ⟨op, hop, hrsv, hevent⟩
    obtain ⟨hwf, rfl, himm⟩ := (eventOf_eq_iff op _ i).1 hevent
    exact ⟨hwf, hop, hrsv, himm.symm⟩
  · rintro ⟨hwf, hop, hrsv, himm⟩
    exact ⟨i.opcode, hop, hrsv, (eventOf_eq_iff _ _ i).2 ⟨hwf, rfl, himm.symm⟩⟩

/-! ### Refusals -/

/-- A word is of unknown opcode when its first byte is (R94). -/
theorem decode_eq_unknownOpcode (w : Word) :
    decode w = .error .unknownOpcode ↔ opcodeOfByte (fieldOp w) = none := by
  unfold decode
  cases opcodeOfByte (fieldOp w) with
  | none => simp
  | some op =>
    dsimp only
    split
    · simp
    · split <;> simp

/-- A word of a known opcode is refused for its reserved bits (R94). -/
theorem decode_eq_reservedBits (w : Word) :
    decode w = .error .reservedBits ↔ ∃ op, fieldOp w = op.toByte ∧
      (fieldRsv w ≠ 0 ∨ operandOk op (fieldImm w) = false) := by
  simp only [← opcodeOfByte_eq_some]
  unfold decode
  cases opcodeOfByte (fieldOp w) with
  | none => simp
  | some op =>
    by_cases hrsv : fieldRsv w = 0 <;> cases hok : operandOk op (fieldImm w) <;> simp [hrsv, hok]

/-- The must-be-zero bits of an operand by the number of its opcode (R92). -/
theorem operandOk_eq_false_iff (op : Opcode) (imm : Half) :
    operandOk op imm = false ↔
      (op.toByte.toNat ∈ [1, 2, 3, 4, 6, 10] ∧ imm.toNat ≠ 0) ∨
        (op.toByte.toNat ∈ [5, 9] ∧ imm.toNat / 2 ^ 8 ≠ 0) := by
  have hzero : imm = 0#16 ↔ imm.toNat = 0 := by bv_omega
  have hhigh : imm.extractLsb' 8 8 = 0#8 ↔ imm.toNat / 2 ^ 8 = 0 := by
    have : imm.toNat < 2 ^ 16 := imm.isLt
    rw [← BitVec.toNat_inj, BitVec.extractLsb'_toNat, Nat.shiftRight_eq_div_pow]
    simp only [BitVec.toNat_ofNat]
    omega
  cases op <;> simp [operandOk, Opcode.toByte, hzero, hhigh]

/-- Settles O2: the fields in numbers turn the two refusals (`decode_eq_unknownOpcode`,
`decode_eq_reservedBits`) and the fields of an encoding (`decodeAgreesWithEncode`) into the
procedure. -/
theorem decodeFollowsTheProcedure : Obligations.DecodeFollowsTheProcedure := by
  intro w op rsv imm
  have hop : (fieldOp w).toNat = op := fieldOp_toNat w
  have hrsv : fieldRsv w ≠ 0 ↔ rsv ≠ 0 := by
    rw [ne_eq, ne_eq, show rsv = (fieldRsv w).toNat from (fieldRsv_toNat w).symm]
    bv_omega
  have himm : (fieldImm w).toNat = imm := fieldImm_toNat w
  refine ⟨?_, ?_, fun i hi => ?_⟩
  · rw [decode_eq_unknownOpcode, opcodeOfByte_eq_none, hop]
  · rw [decode_eq_reservedBits, ← himm, ← hrsv, ← hop]
    constructor
    · rintro ⟨known, hknown, hbits⟩
      rw [operandOk_eq_false_iff, ← hknown] at hbits
      exact ⟨hknown ▸ known.toByte_toNat_mem, hbits⟩
    · rintro ⟨hmem, hbits⟩
      obtain ⟨known, hknown⟩ : ∃ known, opcodeOfByte (fieldOp w) = some known :=
        Option.ne_none_iff_exists'.1 fun hnone => (opcodeOfByte_eq_none _).1 hnone hmem
      have hbyte := (opcodeOfByte_eq_some _ _).1 hknown
      refine ⟨known, hbyte, ?_⟩
      rwa [operandOk_eq_false_iff, ← hbyte]
  · obtain ⟨-, rfl⟩ := (decodeAgreesWithEncode w i).1 hi
    obtain ⟨h1, -, h3⟩ := Laws.Layout.of_encode i
    exact ⟨by rw [← hop, h1], by rw [← himm, h3]⟩

/-- Settles O3: one word of each line of the assembler's table (R98), decoded by evaluation. -/
theorem assemblerWordsDecode : Obligations.AssemblerWordsDecode := by
  unfold Obligations.AssemblerWordsDecode
  decide

end Sys2Proof

/-! ## PROOF. The step and the events (R31, R77): what each event can leave, said once, and what follows
for the stream, the parameters, the notices, the ring's indices and the consumer's side. -/

namespace Sys2Proof.Machine

/-! ### One inversion for every event -/

/-- The handler of an event, as a computation that may fault (R91). -/
def eventHandler : Instr → State → Except Fault State
  | .edgeFall, s => fallHandler s
  | .edgeRise, s => riseHandler s
  | .silenceTimeout, s => if s.ocie then silenceHandler s else .ok s
  | .taskPoll, s => pollHandler s
  | .configure imm, s => reenterReceive { s with txReport := operandByte imm }
  | .rxReset, s => reenterReceive s
  | .tickUs imm, s => tickBy imm s
  | .ticksAdv imm, s => .ok { s with ticks := s.ticks + operandCount imm }
  | .setRssi imm, s => .ok { s with rssi := operandByte imm }
  | .hwReset, s => .ok (hwReset s)

/-- The meaning of an event is its handler run to completion (R77, R91). -/
theorem exec_eq_complete (i : Instr) (s : State) : exec i s = complete (eventHandler i s) := by
  cases i <;> rfl

theorem exec_eq_next {i : Instr} {s t : State} : exec i s = .next t ↔ eventHandler i s = .ok t := by
  rw [exec_eq_complete, complete_eq_next]

/-- The state after re-entry of receive from a state whose producer bucket is `b` (R290, R291, R295). -/
def receiveReentered (b : Bucket) (s : State) : State :=
  { s with
    buckets := s.buckets.set s.inIdx.toNat Bucket.cleared
    ocie := false, isNotRep := false, isRep := false, packageOK := false
    roby := 0, robuf := [], repTime := 0
    notices := s.notices ++ if b.state ≠ .reset ∨ 0 < b.bitCount then [.cancelled s.inIdx] else [] }

theorem reenterReceive_of_producer {s : State} {b : Bucket} (h : isProducer s b) :
    reenterReceive s = .ok (receiveReentered b s) := by
  have hprogress : inProgress b = true ↔ b.state ≠ .reset ∨ 0 < b.bitCount := by
    simp [inProgress]
  simp only [reenterReceive, producer_ok.2 h, ok_bind, hprogress]
  split
  · rw [receiveReentered, if_pos ‹_›]; rfl
  · rw [receiveReentered, if_neg ‹_›, List.append_nil]; rfl

theorem reenterReceive_ok {s t : State} (h : reenterReceive s = .ok t) :
    ∃ b, isProducer s b ∧ t = receiveReentered b s := by
  obtain ⟨b, hb, -⟩ := bind_eq_ok.1 h
  have hp := producer_ok.1 hb
  rw [reenterReceive_of_producer hp] at h
  exact ⟨b, hp, by cases h; rfl⟩

/-- Everything an event can leave, from every state. -/
inductive EventOutcome (s : State) : Instr → State → Prop
  | edge {i t} (hi : i = .edgeFall ∨ i = .edgeRise) (h : EdgeFrame s t) : EventOutcome s i t
  | elapsed {i} (hi : i = .silenceTimeout ∨ ∃ n, i = .tickUs n) (v : Half) :
      EventOutcome s i { s with tcnt := v }
  | discarded {i} (hi : i = .silenceTimeout ∨ ∃ n, i = .tickUs n) (b n x) (v : Half)
      (hp : isProducer s b) :
      EventOutcome s i { inputResetWith [n] s with sink := s.sink ++ x, tcnt := v }
  | committed {i} (hi : i = .silenceTimeout ∨ ∃ n, i = .tickUs n) (b) (v : Half)
      (hp : isProducer s b) (hdata : falseAlarm b = false) (hroom : ringFull s = false) :
      EventOutcome s i { s with
        ocie := false, inIdx := ringSucc s.cfg s.inIdx, nrUsed := s.nrUsed + 1, tcnt := v }
  | polled {t} (h : PollOutcome s t) : EventOutcome s .taskPoll t
  | configured (imm b) (hp : isProducer s b) :
      EventOutcome s (.configure imm) (receiveReentered b { s with txReport := operandByte imm })
  | reentered (b) (hp : isProducer s b) : EventOutcome s .rxReset (receiveReentered b s)
  | advanced (imm) :
      EventOutcome s (.ticksAdv imm) { s with ticks := s.ticks + operandCount imm }
  | measured (imm) : EventOutcome s (.setRssi imm) { s with rssi := operandByte imm }
  | reset : EventOutcome s .hwReset (hwReset s)

theorem silenceTimeout_outcome {s t : State}
    (h : (if s.ocie then silenceHandler s else .ok s) = .ok t) :
    EventOutcome s .silenceTimeout t := by
  split at h
  · rcases silenceHandler_cases h with ⟨b, n, x, hp, rfl⟩ | ⟨b, hp, hdata, hroom, rfl⟩
    · exact .discarded (.inl rfl) b n x s.tcnt hp
    · exact .committed (.inl rfl) b s.tcnt hp hdata hroom
  · cases h
    exact .elapsed (.inl rfl) s.tcnt

theorem tickUs_outcome {s t : State} {n : Half} (h : tickBy n s = .ok t) :
    EventOutcome s (.tickUs n) t := by
  have hi : Instr.tickUs n = .silenceTimeout ∨ ∃ m, Instr.tickUs n = .tickUs m := .inr ⟨n, rfl⟩
  rcases tickBy_cases h with rfl | ⟨u, v, hu, -, rfl⟩
  · exact .elapsed hi _
  · rcases silenceHandler_cases hu with ⟨b, m, x, hp, rfl⟩ | ⟨b, hp, hdata, hroom, rfl⟩
    · exact .discarded hi b m x v hp
    · exact .committed hi b v hp hdata hroom

/-- An event that completes has one of its outcomes. -/
theorem exec_outcome {i : Instr} {s t : State} (h : exec i s = .next t) : EventOutcome s i t := by
  rw [exec_eq_next] at h
  cases i with
  | edgeFall => exact .edge (.inl rfl) (fallHandler_frame h)
  | edgeRise => exact .edge (.inr rfl) (riseHandler_frame h)
  | silenceTimeout => exact silenceTimeout_outcome h
  | taskPoll => exact .polled (pollHandler_cases h)
  | configure imm =>
    obtain ⟨b, hp, rfl⟩ := reenterReceive_ok h
    exact .configured imm b hp
  | rxReset =>
    obtain ⟨b, hp, rfl⟩ := reenterReceive_ok h
    exact .reentered b hp
  | tickUs n => exact tickUs_outcome h
  | ticksAdv imm => cases h; exact .advanced imm
  | setRssi imm => cases h; exact .measured imm
  | hwReset => cases h; exact .reset

/-- A poll of a committed bucket writes the consumer's side and the traces alone (R79, R210). -/
theorem PollOutcome.consumer_frame {s t : State} (h : PollOutcome s t) :
    (s.nrUsed = 0 ∧ t = s) ∨ (s.nrUsed ≠ 0 ∧ t = { s with
      buckets := s.buckets.set s.outIdx.toNat Bucket.cleared
      outIdx := ringSucc s.cfg s.outIdx, nrUsed := s.nrUsed - 1
      obuf := t.obuf, oby := t.oby, nibble := t.nibble, datatype := t.datatype
      robuf := t.robuf, roby := t.roby, repTime := t.repTime
      isRep := t.isRep, isNotRep := t.isNotRep, packageOK := t.packageOK
      sink := t.sink, calls := t.calls, notices := t.notices }) := by
  cases h with
  | empty hempty => exact .inl ⟨hempty, rfl⟩
  | fail b a hused => exact .inr ⟨hused, rfl⟩
  | frame b a dt u hused _ _ _ hdeliver =>
    refine .inr ⟨hused, ?_⟩
    rw [(deliver_frame hdeliver).rest]
    rfl

/-- A poll appends at most one notice (R311). -/
theorem PollOutcome.notices_eq {s t : State} (h : PollOutcome s t) :
    t.notices = s.notices ∨ ∃ n, t.notices = s.notices ++ [n] := by
  cases h with
  | empty => exact .inl rfl
  | fail => exact .inr ⟨_, rfl⟩
  | frame b a dt u _ _ _ _ hdeliver =>
    rw [release_notices, (deliver_frame hdeliver).rest]
    cases u.packageOK
    · exact .inr ⟨_, rfl⟩
    · exact .inl (List.append_nil _)

/-! ### What no event changes -/

/-- No event writes the parameters, the waiting words or the index (R31, R340). -/
theorem exec_keeps_stream {i : Instr} {s t : State} (h : exec i s = .next t) :
    t.cfg = s.cfg ∧ t.inputs = s.inputs ∧ t.index = s.index := by
  cases exec_outcome h with
  | edge _ hframe => rw [hframe.rest]; exact ⟨rfl, rfl, rfl⟩
  | polled hpoll =>
    rcases hpoll.consumer_frame with ⟨-, rfl⟩ | ⟨-, hrest⟩
    · exact ⟨rfl, rfl, rfl⟩
    · rw [hrest]; exact ⟨rfl, rfl, rfl⟩
  | _ => exact ⟨rfl, rfl, rfl⟩

/-- Settles O14: each outcome of an event appends at most one notice. -/
theorem eventAppendsAtMostOneNotice : Obligations.EventAppendsAtMostOneNotice := by
  intro i s t h
  have reentry (b : Bucket) (s : State) : (receiveReentered b s).notices = s.notices ∨
      ∃ n, (receiveReentered b s).notices = s.notices ++ [n] := by
    unfold receiveReentered
    split
    · exact .inr ⟨_, rfl⟩
    · exact .inl (List.append_nil _)
  cases exec_outcome h with
  | edge _ hframe => exact hframe.nt
  | discarded => exact .inr ⟨_, rfl⟩
  | polled hpoll => exact hpoll.notices_eq
  | configured imm b => exact reentry b { s with txReport := operandByte imm }
  | reentered b => exact reentry b s
  | _ => exact .inl rfl

/-! ### The step -/

/-- The waiting word leaves the stream and the index moves on (R31). -/
theorem nextEvent_of_inputs {s : State} {w : Word} {rest : List Word} (h : s.inputs = w :: rest) :
    nextEvent s = some (w, { s with inputs := rest, index := s.index + 1 }) := by
  simp only [nextEvent, h]

/-- A step on a word that decodes (R77). -/
theorem step_of_decode_ok {s : State} {w : Word} {rest : List Word} {i : Instr}
    (hlegal : s.configured) (hinputs : s.inputs = w :: rest) (hd : decode w = .ok i) :
    step s = exec i { s with inputs := rest, index := s.index + 1 } := by
  simp only [step, if_pos hlegal, nextEvent_of_inputs hinputs, hd]

/-- A step on an illegal word (R96, R97). -/
theorem step_of_decode_error {s : State} {w : Word} {rest : List Word} {e : DecodeError}
    (hlegal : s.configured) (hinputs : s.inputs = w :: rest) (hd : decode w = .error e) :
    step s = .next (refuseWord w { s with inputs := rest, index := s.index + 1 }) := by
  simp only [step, if_pos hlegal, nextEvent_of_inputs hinputs, hd]

/-- A step with no word waiting idles (R327). -/
theorem step_of_no_inputs {s : State} (hlegal : s.configured) (hinputs : s.inputs = []) :
    step s = .next s := by
  simp only [step, if_pos hlegal, nextEvent, hinputs]

/-- Everything a step that has a next state can be: idle, an event's meaning, or a refused word. -/
theorem step_cases {s t : State} (h : step s = .next t) :
    s.configured ∧ ((s.inputs = [] ∧ t = s) ∨
      ∃ w rest, s.inputs = w :: rest ∧
        ((∃ i, decode w = .ok i ∧
            exec i { s with inputs := rest, index := s.index + 1 } = .next t) ∨
          t = refuseWord w { s with inputs := rest, index := s.index + 1 })) := by
  by_cases hlegal : s.configured
  · refine ⟨hlegal, ?_⟩
    cases hinputs : s.inputs with
    | nil =>
      rw [step_of_no_inputs hlegal hinputs] at h
      cases h
      exact .inl ⟨rfl, rfl⟩
    | cons w rest =>
      refine .inr ⟨w, rest, rfl, ?_⟩
      cases hd : decode w with
      | ok i => exact .inl ⟨i, rfl, (step_of_decode_ok hlegal hinputs hd).symm.trans h⟩
      | error e =>
        rw [step_of_decode_error hlegal hinputs hd] at h
        cases h
        exact .inr rfl
  · simp only [step, if_neg hlegal] at h
    cases h

/-- Settles O4. -/
theorem stepRunsTheDecodedEvent : Obligations.StepRunsTheDecodedEvent :=
  fun _ _ _ _ hlegal hinputs hd => step_of_decode_ok hlegal hinputs hd

/-- Settles O5: a word that does not decode goes to `refuseWord`. -/
theorem illegalWordIsRefusedInPlace : Obligations.IllegalWordIsRefusedInPlace :=
  fun _ _ _ _ hlegal hinputs hd => step_of_decode_error hlegal hinputs hd

/-- Settles O6: each bound contradicts a clause of `legalConfig`; the ESA bound is ESA_BITLEN / 8. -/
theorem illegalConfigurationIsRefused : Obligations.IllegalConfigurationIsRefused := by
  intro s hbad
  refine if_neg fun hlegal => ?_
  obtain ⟨h2, h255, h13, hmax, hesa, hrep, hctrl⟩ := hlegal
  rcases hbad with h | h | h | h | h | h | h
  · omega
  · omega
  · omega
  · omega
  · cases hlen : s.cfg.esaBitLen <;> simp only [hlen, esaBits] at h hesa <;> omega
  · exact hrep h
  · omega

/-- Settles O7. -/
theorem noEventChangesNothing : Obligations.NoEventChangesNothing :=
  fun _ hlegal hinputs => step_of_no_inputs hlegal hinputs

/-- Settles O8: the step itself takes the word and moves the index, and no event touches either
(`exec_keeps_stream`). -/
theorem eventIndexAdvancesByOne : Obligations.EventIndexAdvancesByOne := by
  intro s t w rest hinputs h
  obtain ⟨-, ⟨hnil, -⟩ | ⟨w', rest', hcons, hstep⟩⟩ := step_cases h
  · rw [hinputs] at hnil
    cases hnil
  · rw [hinputs] at hcons
    cases hcons
    rcases hstep with ⟨i, -, hexec⟩ | rfl
    · obtain ⟨-, hin, hindex⟩ := exec_keeps_stream hexec
      exact ⟨hindex, hin⟩
    · exact ⟨rfl, rfl⟩

/-- Settles O15: neither an event (`exec_keeps_stream`) nor the step around it writes `cfg`. -/
theorem parametersNeverChange : Obligations.ParametersNeverChange := by
  intro s t h
  obtain ⟨-, ⟨-, rfl⟩ | ⟨w, rest, -, ⟨i, -, hexec⟩ | rfl⟩⟩ := step_cases h
  · rfl
  · exact (exec_keeps_stream hexec).1
  · rfl

/-! ### The ring's indices -/

/-- The index of the `k`-th bucket from `out` on is `out + k`, less N where that leaves the ring. -/
theorem add_mod_eq_ite {N a k : Nat} (ha : a < N) (hk : k < N) :
    (a + k) % N = if a + k < N then a + k else a + k - N := by
  split
  · exact Nat.mod_eq_of_lt ‹_›
  · rw [Nat.mod_eq_sub_mod (by omega), Nat.mod_eq_of_lt (by omega)]

/-- The ring's indices alone (R136). -/
structure RingIndices (s : State) : Prop where
  two_le : 2 ≤ s.cfg.nBuckets
  le_255 : s.cfg.nBuckets ≤ 255
  out_lt : s.outIdx.toNat < s.cfg.nBuckets
  used_lt : s.nrUsed.toNat < s.cfg.nBuckets
  in_eq : s.inIdx.toNat = ringIndex s s.nrUsed.toNat

/-- A state with the same indices. -/
theorem RingIndices.congr {s t : State} (h : RingIndices s) (hcfg : t.cfg = s.cfg)
    (hout : t.outIdx = s.outIdx) (hused : t.nrUsed = s.nrUsed) (hin : t.inIdx = s.inIdx) :
    RingIndices t := by
  obtain ⟨h1, h2, h3, h4, h5⟩ := h
  constructor <;> simp only [ringIndex, hcfg, hout, hused, hin] <;> assumption

theorem RingIndices.in_lt {s : State} (h : RingIndices s) : s.inIdx.toNat < s.cfg.nBuckets := by
  rw [h.in_eq]
  exact Nat.mod_lt _ (by have := h.two_le; omega)

/-- The `k`-th index from `out` on, for every `k` on the ring (R136). -/
theorem RingIndices.ringIndex_eq {s : State} (h : RingIndices s) {k : Nat}
    (hk : k < s.cfg.nBuckets) :
    ringIndex s k = if s.outIdx.toNat + k < s.cfg.nBuckets then s.outIdx.toNat + k
      else s.outIdx.toNat + k - s.cfg.nBuckets :=
  add_mod_eq_ite h.out_lt hk

/-- Distinct places of the ring have distinct indices. -/
theorem RingIndices.ringIndex_inj {s : State} (h : RingIndices s) {j k : Nat}
    (hj : j < s.cfg.nBuckets) (hk : k < s.cfg.nBuckets) (he : ringIndex s j = ringIndex s k) :
    j = k := by
  have := h.out_lt
  rw [h.ringIndex_eq hj, h.ringIndex_eq hk] at he
  split at he <;> split at he <;> omega

theorem RingIndices.succ_toNat {s : State} (h : RingIndices s) (i : Byte)
    (hi : i.toNat < s.cfg.nBuckets) : (ringSucc s.cfg i).toNat =
      if i.toNat + 1 < s.cfg.nBuckets then i.toNat + 1 else 0 := by
  have := h.two_le
  have := h.le_255
  rw [ringSucc_toNat (by omega) (by omega), add_mod_eq_ite hi (by omega)]
  split <;> omega

/-- A commit moves `in` behind one more committed bucket (R133, R136). -/
theorem RingIndices.of_commit {s t : State} (h : RingIndices s) (hroom : ringFull s = false)
    (hcfg : t.cfg = s.cfg) (hout : t.outIdx = s.outIdx) (hused : t.nrUsed = s.nrUsed + 1)
    (hin : t.inIdx = ringSucc s.cfg s.inIdx) : RingIndices t := by
  have hin' := h.in_eq
  have hlt := h.in_lt
  obtain ⟨h2, h255, ho, hu, -⟩ := id h
  have hroom : s.nrUsed.toNat + 1 ≠ s.cfg.nBuckets := by simpa [ringFull] using hroom
  have hused' : t.nrUsed.toNat = s.nrUsed.toNat + 1 := by rw [hused]; bv_omega
  refine ⟨hcfg ▸ h2, hcfg ▸ h255, by rwa [hcfg, hout], by rw [hcfg, hused']; omega, ?_⟩
  rw [h.ringIndex_eq hu] at hin'
  rw [ringIndex, hcfg, hout, hused', add_mod_eq_ite ho (by omega), hin, h.succ_toNat _ hlt]
  split at hin' <;> split <;> split <;> omega

/-- A release moves `out` past one committed bucket; `in` stays where it is (R134, R136). -/
theorem RingIndices.of_release {s t : State} (h : RingIndices s) (hne : s.nrUsed ≠ 0)
    (hcfg : t.cfg = s.cfg) (hout : t.outIdx = ringSucc s.cfg s.outIdx)
    (hused : t.nrUsed = s.nrUsed - 1) (hin : t.inIdx = s.inIdx) : RingIndices t := by
  have hin' := h.in_eq
  obtain ⟨h2, h255, ho, hu, -⟩ := id h
  have hused' : t.nrUsed.toNat + 1 = s.nrUsed.toNat := by rw [hused]; bv_omega
  have hout' := h.succ_toNat _ ho
  rw [h.ringIndex_eq hu] at hin'
  have hlt : t.outIdx.toNat < s.cfg.nBuckets := by rw [hout, hout']; split <;> omega
  refine ⟨hcfg ▸ h2, hcfg ▸ h255, by rwa [hcfg], by rw [hcfg]; omega, ?_⟩
  rw [ringIndex, hcfg, add_mod_eq_ite hlt (by omega), hin, hout, hout']
  split at hin' <;> split <;> split <;> omega

theorem ringIndices_powerOn {c : Config} (h2 : 2 ≤ c.nBuckets) (h255 : c.nBuckets ≤ 255) :
    RingIndices (State.powerOn c) where
  two_le := h2
  le_255 := h255
  out_lt := show 0 < c.nBuckets by omega
  used_lt := show 0 < c.nBuckets by omega
  in_eq := (Nat.zero_mod _).symm

/-- Every event keeps the relation of the ring's indices (R136). -/
theorem RingIndices.of_exec {i : Instr} {s t : State} (h : RingIndices s) (hexec : exec i s = .next t) :
    RingIndices t := by
  cases exec_outcome hexec with
  | edge _ hframe => rw [hframe.rest]; exact h.congr rfl rfl rfl rfl
  | committed _ b v _ _ hroom => exact h.of_commit hroom rfl rfl rfl rfl
  | polled hpoll =>
    rcases hpoll.consumer_frame with ⟨-, rfl⟩ | ⟨hused, hrest⟩
    · exact h
    · rw [hrest]
      exact h.of_release hused rfl rfl rfl rfl
  | reset => exact (ringIndices_powerOn h.two_le h.le_255).congr rfl rfl rfl rfl
  | _ => exact h.congr rfl rfl rfl rfl

/-- Settles O12: the relation is `RingIndices`, kept by every event; the producer's place on the ring
is behind the committed ones, and places have distinct indices. -/
theorem ringIndicesAreKept : Obligations.RingIndicesAreKept := by
  unfold Obligations.RingIndicesAreKept
  intro ok
  have ok_iff (s : State) : ok s ↔ RingIndices s := by
    constructor
    · rintro ⟨h2, h255, hout, hused, hin⟩
      exact ⟨h2, h255, hout, by omega, hin⟩
    · rintro ⟨h2, h255, hout, hused, hin⟩
      exact ⟨h2, h255, hout, by omega, hin⟩
  simp only [ok_iff]
  refine ⟨ringIndices_powerOn (by decide) (by decide), fun i s t h => h.of_exec, fun s h k hk he => ?_⟩
  rw [h.in_eq] at he
  exact absurd (h.ringIndex_inj (hk.trans h.used_lt) h.used_lt he) hk.ne

/-! ### The producer's events and the consumer's side -/

/-- A ring whose bucket at one index is replaced is the same at every other index. -/
theorem getElem?_set_of_ne {bs : List Bucket} {i k : Nat} (b : Bucket) (h : k ≠ i) :
    (bs.set i b)[k]? = bs[k]? := by
  rw [List.getElem?_set_ne h.symm]

/-- Settles O24: each outcome of the four events replaces at most the producer bucket, and its frame
names the few other fields it writes. -/
theorem producerEventsLeaveTheConsumerAlone :
    Obligations.ProducerEventsLeaveTheConsumerAlone := by
  intro i s t hi h
  cases exec_outcome h with
  | edge hedge hframe =>
    obtain ⟨⟨b, hb⟩, hrest, hnr, -, -⟩ := hframe
    rw [hrest]
    refine ⟨rfl, by rw [hb]; exact List.length_set, fun k hk => ?_, rfl, rfl, rfl, rfl, rfl, rfl, rfl,
      rfl, rfl, hnr, rfl, rfl, rfl, rfl, .inl ⟨rfl, rfl⟩, fun _ => ⟨rfl, rfl, rfl⟩⟩
    show t.buckets[k]? = s.buckets[k]?
    rw [hb, getElem?_set_of_ne b hk]
  | elapsed hi v =>
    exact ⟨rfl, rfl, fun _ _ => rfl, rfl, rfl, rfl, rfl, rfl, rfl, rfl, rfl, rfl, .inl rfl, rfl, rfl,
      rfl, rfl, .inl ⟨rfl, rfl⟩, fun _ => ⟨rfl, rfl, rfl⟩⟩
  | discarded hi b n x v hp =>
    refine ⟨rfl, List.length_set, fun k hk => getElem?_set_of_ne _ hk, rfl, rfl, rfl, rfl, rfl, rfl,
      rfl, rfl, rfl, .inr rfl, rfl, rfl, rfl, rfl, .inl ⟨rfl, rfl⟩, fun hedge => ?_⟩
    rcases hi with rfl | ⟨m, rfl⟩ <;> simp at hedge
  | committed hi b v hp =>
    refine ⟨rfl, rfl, fun _ _ => rfl, rfl, rfl, rfl, rfl, rfl, rfl, rfl, rfl, rfl, .inl rfl, rfl, rfl,
      rfl, rfl, .inr ⟨rfl, rfl, rfl⟩, fun hedge => ?_⟩
    rcases hi with rfl | ⟨m, rfl⟩ <;> simp at hedge
  | _ => simp at hi

/-! ### Host control and reset -/

/-- Settles O57. -/
theorem configureReentersReceive : Obligations.ConfigureReentersReceive := by
  intro s b imm hp
  rw [exec_eq_next]
  have hvalue : operandByte imm = imm.setWidth 8 := by
    apply BitVec.eq_of_toNat_eq
    simp [operandByte]
  rw [← hvalue]
  exact reenterReceive_of_producer (s := { s with txReport := operandByte imm }) hp

/-- Settles O58. -/
theorem rxResetReentersReceive : Obligations.RxResetReentersReceive := by
  intro s b hp
  rw [exec_eq_next]
  exact reenterReceive_of_producer hp

/-- Settles O59: the operands of the two writes, in numbers. -/
theorem inputRegisterWrites : Obligations.InputRegisterWrites := by
  intro s imm
  have hticks : s.ticks + operandCount imm =
      BitVec.ofNat 32 ((s.ticks.toNat + imm.toNat) % 2 ^ 32) := by
    have := imm.isLt
    apply BitVec.eq_of_toNat_eq
    simp only [operandCount, BitVec.toNat_add, BitVec.toNat_setWidth, BitVec.toNat_ofNat]
    omega
  have hrssi : operandByte imm = BitVec.ofNat 8 (imm.toNat % 2 ^ 8) := by
    apply BitVec.eq_of_toNat_eq
    simp [operandByte]
  rw [← hticks, ← hrssi]
  exact ⟨rfl, rfl⟩

/-- Settles O60: the reset state is `State.powerOn` with the stream and the traces kept, and every
bucket of it is the cleared one. -/
theorem hwResetRestoresEveryElement : Obligations.HwResetRestoresEveryElement := by
  intro s
  refine ⟨hwReset s, rfl, rfl, rfl, rfl, rfl, rfl, List.length_replicate, fun b hb => ?_, rfl, rfl,
    rfl, fun _ => rfl, rfl, rfl, rfl, fun _ => rfl, rfl, rfl, rfl, rfl, rfl, rfl, rfl, rfl, rfl, rfl,
    rfl, rfl, rfl, rfl, rfl⟩
  rw [List.eq_of_mem_replicate hb]
  exact ⟨rfl, rfl, rfl, rfl, rfl, rfl, fun _ => rfl⟩

end Sys2Proof.Machine

/-! ## PROOF. The timer, the silence handler and the wave arithmetic (R110, R111, R171, R172, R200). -/

namespace Sys2Proof.Machine

/-! ### The microsecond loop -/

/-- The compare match after `k` microseconds, by the distance from TCNT to OCR (R110). -/
theorem add_ofNat_eq_iff (a b : Half) {k : Nat} (hk : k < 2 ^ 16) :
    a + BitVec.ofNat 16 k = b ↔ k = (b - a).toNat := by
  constructor <;> intro h <;> bv_omega

/-- No compare match falls within the next `n` microseconds, or the compare is disabled (R110). -/
def NoMatchWithin (n : Nat) (s : State) : Prop :=
  s.ocie = true → ∀ k : Nat, 1 ≤ k → k ≤ n → s.tcnt + BitVec.ofNat 16 k ≠ s.ocr

theorem tickOne_of_no_match {s : State} (h : NoMatchWithin 1 s) :
    tickOne s = .ok { s with tcnt := s.tcnt + 1 } := by
  have hne : ¬ (s.ocie && s.tcnt + 1 == s.ocr) = true := by
    simp only [Bool.and_eq_true, beq_iff_eq]
    exact fun hmatch => h hmatch.1 1 le_rfl le_rfl hmatch.2
  exact if_neg hne

/-- A microsecond that reaches OCR with the compare enabled runs the silence handler (R110). -/
theorem tickOne_of_match {s : State} (hocie : s.ocie = true) (h : s.tcnt + 1 = s.ocr) :
    tickOne s = silenceHandler { s with tcnt := s.ocr } := by
  have hmatch : (s.ocie && s.tcnt + 1 == s.ocr) = true := by
    rw [hocie, Bool.true_and, beq_iff_eq, h]
  have hstate : { s with tcnt := s.ocr } = { s with tcnt := s.tcnt + 1 } := by rw [h]
  rw [hstate]
  exact if_pos hmatch

theorem tickLoop_add (m n : Nat) (s : State) :
    tickLoop (m + n) s = tickLoop m s >>= tickLoop n := by
  induction m generalizing s with
  | zero => rw [Nat.zero_add]; rfl
  | succ m ih =>
    rw [Nat.succ_add]
    simp only [tickLoop]
    cases tickOne s with
    | error e => rfl
    | ok u => exact ih u

/-- Without a match the loop only advances the timer (R110). -/
theorem tickLoop_of_no_match {n : Nat} {s : State} (h : NoMatchWithin n s) :
    tickLoop n s = .ok { s with tcnt := s.tcnt + BitVec.ofNat 16 n } := by
  induction n generalizing s with
  | zero => simp [tickLoop]
  | succ n ih =>
    have hone : NoMatchWithin 1 s := fun hocie k h1 hk => h hocie k h1 (by omega)
    have hrest : NoMatchWithin n { s with tcnt := s.tcnt + 1 } := by
      intro hocie k h1 hk
      have hnext := h hocie (k + 1) (by omega) (by omega)
      rwa [Nat.add_comm, BitVec.ofNat_add, ← BitVec.add_assoc] at hnext
    have hsum : s.tcnt + 1 + BitVec.ofNat 16 n = s.tcnt + BitVec.ofNat 16 (n + 1) := by
      rw [Nat.add_comm n, BitVec.ofNat_add, ← BitVec.add_assoc]
      rfl
    simp only [tickLoop, tickOne_of_no_match hone, ok_bind, ih hrest, hsum]

/-- The silence handler disarms the compare (R200). -/
theorem silenceHandler_disarms {s t : State} (h : silenceHandler s = .ok t) : t.ocie = false := by
  rcases silenceHandler_cases h with ⟨b, n, x, -, rfl⟩ | ⟨b, -, -, -, rfl⟩ <;> rfl

/-- The closed form of TICK_US is the rule's loop (R110): up to the match the loop only advances the
timer, and after it the compare is disabled. -/
theorem tickBy_eq_tickLoop (n : Half) (s : State) : tickBy n s = tickLoop n.toNat s := by
  have hn : n.toNat < 2 ^ 16 := n.isLt
  generalize hd : s.ocr - s.tcnt = d
  have hfirst (k : Nat) (hk : k ≤ n.toNat) : s.tcnt + BitVec.ofNat 16 k = s.ocr ↔ k = d.toNat := by
    rw [add_ofNat_eq_iff _ _ (by omega), hd]
  by_cases hmatch : s.ocie ∧ 0 < d.toNat ∧ d.toNat ≤ n.toNat
  · obtain ⟨hocie, hpos, hle⟩ := hmatch
    obtain ⟨m, hm⟩ : ∃ m, d.toNat = m + 1 := ⟨d.toNat - 1, by omega⟩
    have hbefore : NoMatchWithin m s := fun _ k _ hk he => by
      have := (hfirst k (by omega)).1 he
      omega
    have hat : tickOne { s with tcnt := s.tcnt + BitVec.ofNat 16 m } =
        silenceHandler { s with tcnt := s.ocr } :=
      tickOne_of_match (s := { s with tcnt := s.tcnt + BitVec.ofNat 16 m }) hocie
        (by have := (hfirst (m + 1) (by omega)).2 hm.symm
            rwa [BitVec.ofNat_add, ← BitVec.add_assoc] at this)
    have hsplit : n.toNat = m + ((n - d).toNat + 1) := by bv_omega
    rw [hsplit, tickLoop_add, tickLoop_of_no_match hbefore, ok_bind, tickLoop, hat, tickBy, hd,
      if_pos ⟨hocie, hpos, hle⟩]
    cases hu : silenceHandler { s with tcnt := s.ocr } with
    | error e => rfl
    | ok u =>
      have hoff : NoMatchWithin (n - d).toNat u := fun hon => by
        rw [silenceHandler_disarms hu] at hon
        cases hon
      simp only [ok_bind, tickLoop_of_no_match hoff, BitVec.ofNat_toNat, BitVec.setWidth_eq]
  · have hnone : NoMatchWithin n.toNat s := fun hocie k h1 hk he => by
      have := (hfirst k hk).1 he
      exact hmatch ⟨hocie, by omega, by omega⟩
    rw [tickLoop_of_no_match hnone, tickBy, hd, if_neg hmatch, BitVec.ofNat_toNat,
      BitVec.setWidth_eq]

/-- Settles O16. -/
theorem tickUsIsTheMicrosecondLoop : Obligations.TickUsIsTheMicrosecondLoop := by
  intro n s
  rw [exec_eq_complete, ← tickBy_eq_tickLoop]
  rfl

/-- Settles O17: the loop without a match. -/
theorem tickUsWithoutMatchAdvancesTheTimer : Obligations.TickUsWithoutMatchAdvancesTheTimer := by
  intro n s hnone
  rw [tickUsIsTheMicrosecondLoop n s, tickLoop_of_no_match hnone, BitVec.ofNat_toNat,
    BitVec.setWidth_eq, complete_ok]

/-- The silence handler neither reads nor writes the timer (R200). -/
theorem silenceHandler_set_tcnt {s u : State} (h : silenceHandler s = .ok u) (v : Half) :
    silenceHandler { s with tcnt := v } = .ok { u with tcnt := v } := by
  obtain ⟨b, hb⟩ := silenceHandler_ok h
  rw [silenceHandler_of_producer hb] at h
  cases h
  rw [silenceHandler_of_producer (s := { s with tcnt := v }) hb]
  change Except.ok (if falseAlarm b then _ else if ringFull s then _ else _) = _
  congr 1
  split
  · rfl
  · split <;> rfl

/-- Settles O18: the match lies at the distance from TCNT to OCR, so TICK_US runs the handler, which
does not see the timer. -/
theorem tickUsTakesTheCompareInterrupt : Obligations.TickUsTakesTheCompareInterrupt := by
  intro n s b k hp hocie h1 hk hmatch
  have hn : n.toNat < 2 ^ 16 := n.isLt
  have hdist : k = (s.ocr - s.tcnt).toNat := (add_ofNat_eq_iff _ _ (by omega)).1 hmatch
  obtain ⟨u, hu⟩ : ∃ u, silenceHandler s = .ok u := ⟨_, silenceHandler_of_producer hp⟩
  have htimer : s.ocr + (n - (s.ocr - s.tcnt)) = s.tcnt + n := by bv_omega
  refine ⟨u, ?_, ?_⟩
  · rw [exec_eq_next]
    exact (if_pos hocie).trans hu
  · rw [exec_eq_next]
    change tickBy n s = _
    rw [tickBy, if_pos ⟨hocie, by omega, by omega⟩, silenceHandler_set_tcnt hu, ok_bind, htimer]

/-! ### The scaled count -/

theorem truncPulse_toNat_of_w8 {c : Config} (h : c.pulseW = .w8) (v : Half) :
    (truncPulse c v).toNat = v.toNat % 2 ^ 8 := by
  simp only [truncPulse, h, BitVec.toNat_and]
  exact Nat.and_two_pow_sub_one_eq_mod _ 8

theorem truncPulse_of_w16 {c : Config} (h : c.pulseW = .w16) (v : Half) : truncPulse c v = v := by
  simp only [truncPulse, h]

/-- Settles O19: the capture registers keep the low PULSE_W bits, and `2^PULSE_W` divides `2^16`. -/
theorem scaledCountIsSixteenths : Obligations.ScaledCountIsSixteenths := by
  intro c
  have hshift (t : Half) : (t >>> 4).toNat = t.toNat / 16 := by
    rw [BitVec.toNat_ushiftRight, Nat.shiftRight_eq_div_pow]
  cases h : c.pulseW with
  | w8 =>
    refine ⟨fun t => ?_, fun count hightime => ?_⟩
    · rw [scale, truncPulse_toNat_of_w8 h, hshift]
    · rw [lowTimeOf, truncPulse_toNat_of_w8 h, BitVec.toNat_sub]
      dsimp only
      omega
  | w16 =>
    refine ⟨fun t => ?_, fun count hightime => ?_⟩
    · have := t.isLt
      rw [scale, truncPulse_of_w16 h, hshift]
      dsimp only
      omega
    · rw [lowTimeOf, truncPulse_of_w16 h, BitVec.toNat_sub]
      dsimp only
      omega

/-! ### The silence handler -/

/-- Settles O20: with the compare enabled the event is the handler, whose cases
(`silenceHandler_of_producer`) are the last three outcomes. -/
theorem silenceTimeoutOutcomes : Obligations.SilenceTimeoutOutcomes := by
  intro s b hp
  rw [exec_eq_next]
  change (if s.ocie then silenceHandler s else .ok s) = _
  cases hocie : s.ocie with
  | false => rfl
  | true =>
    have hfull : ringFull s = true ↔ s.nrUsed.toNat + 1 = s.cfg.nBuckets := by simp [ringFull]
    simp only [if_true, silenceHandler_of_producer hp, falseAlarm_iff, hfull, Bool.true_eq_false,
      if_false]
    rfl

/-! ### The wave arithmetic -/

theorem absDiff_lt_iff (a b n : Nat) : absDiff a b < n ↔ |(a : Int) - b| < n := by
  rw [absDiff, ← Int.natCast_natAbs, Nat.cast_lt]

/-- Settles O34: the comparator's three tests, in exact integers. -/
theorem waveEqualsIsThreeStrictTests : Obligations.WaveEqualsIsThreeStrictTests := by
  intro ref h l st t rh rl
  have ht : (tolerance st : Int) = t := by
    unfold tolerance
    split
    · exact (if_pos ‹_›).symm
    · exact (if_neg ‹_›).symm
  simp only [waveEquals, Bool.and_eq_true, decide_eq_true_eq, absDiff_lt_iff, ht, and_assoc,
    Nat.cast_add, rh, rl]

/-- A map that moves every point of an invariant set downwards, or fixes it, comes to rest there. -/
theorem exists_iterate_eq_of_decreasing {α : Type} (f : α → α) (μ : α → Nat) (P : α → Prop)
    (hP : ∀ a, P a → P (f a)) (hlt : ∀ a, P a → f a ≠ a → μ (f a) < μ a) (a : α) (ha : P a) :
    ∃ n b, P b ∧ f b = b ∧ ∀ m ≥ n, f^[m] a = b := by
  induction hk : μ a using Nat.strong_induction_on generalizing a with
  | h k ih =>
    by_cases hfix : f a = a
    · exact ⟨0, a, ha, hfix, fun m _ => Function.iterate_fixed hfix m⟩
    · obtain ⟨n, b, hb, hbfix, hrest⟩ := ih _ (hk ▸ hlt a ha hfix) (f a) (hP a ha) rfl
      refine ⟨n + 1, b, hb, hbfix, fun m hm => ?_⟩
      obtain ⟨m, rfl⟩ : ∃ j, m = j + 1 := ⟨m - 1, by omega⟩
      rw [Function.iterate_succ_apply]
      exact hrest m (by omega)

/-- One component of the average in numbers; it never leaves 16 bits (R172). -/
theorem avg31_toNat (r x : Half) : (avg31 r x).toNat = (3 * r.toNat + x.toNat) / 4 := by
  have := r.isLt
  have := x.isLt
  rw [avg31, BitVec.toNat_ofNat]
  exact Nat.mod_eq_of_lt (by omega)

/-- Settles O35: from above the average sinks until it is the input, from below it rises until a step
moves it no more. -/
theorem averageConvergesToItsInput : Obligations.AverageConvergesToItsInput := by
  refine ⟨fun ref h l => ⟨rfl, rfl⟩, fun r x => ⟨avg31_toNat r x, fun hle => ?_, fun hle => ?_⟩⟩
  · obtain ⟨n, b, hb, hfix, hrest⟩ := exists_iterate_eq_of_decreasing (fun a => avg31 a x)
      BitVec.toNat (fun a => x.toNat ≤ a.toNat)
      (fun a ha => by rw [avg31_toNat]; omega)
      (fun a ha hne => by
        have : (avg31 a x).toNat ≠ a.toNat := fun he => hne (BitVec.eq_of_toNat_eq he)
        rw [avg31_toNat] at this ⊢
        omega) r hle
    have hbx : b = x := by
      apply BitVec.eq_of_toNat_eq
      have := congrArg BitVec.toNat hfix
      rw [avg31_toNat] at this
      omega
    exact ⟨n, hbx ▸ hrest⟩
  · obtain ⟨n, b, hb, hfix, hrest⟩ := exists_iterate_eq_of_decreasing (fun a => avg31 a x)
      (fun a => x.toNat - a.toNat) (fun a => a.toNat ≤ x.toNat)
      (fun a ha => by rw [avg31_toNat]; omega)
      (fun a ha hne => by
        have : (avg31 a x).toNat ≠ a.toNat := fun he => hne (BitVec.eq_of_toNat_eq he)
        rw [avg31_toNat] at this ⊢
        omega) r hle
    refine ⟨n, b, hb, ?_, hrest⟩
    have := congrArg BitVec.toNat hfix
    rw [avg31_toNat] at this
    omega

end Sys2Proof.Machine

/-! ## PROOF. The edges: capture, Manchester rule, sync detector and bit demodulator (R112 to R116, R150
to R159, R182 to R190). -/

namespace Sys2Proof.Machine

/-! ### A rising edge on the generic path -/

/-- Outside HMS and ESA a rising edge that is no Revolt preamble is dispatched (R113, R115). -/
theorem exec_edgeRise_of_generic {s : State} {b : Bucket} (hp : isProducer s b)
    (hhms : b.state ≠ .hms) (hesa : b.state ≠ .esa)
    (hwave : ¬ isRevoltWave (captured s).hightime (captured s).lowtime) :
    exec .edgeRise s =
      complete (dispatch b (captured s).hightime (captured s).lowtime (captured s)) := by
  rw [exec_eq_complete]
  change complete (riseHandler s) = _
  rw [riseHandler_generic hp hhms hesa, riseGeneric_of_producer hp,
    if_neg (mt (revoltPreamble_iff _ _).1 hwave)]

/-- Settles O28: the generic path tests for the Revolt preamble before it dispatches. -/
theorem revoltPreambleEntersRevolt : Obligations.RevoltPreambleEntersRevolt := by
  intro s b hp hhms hesa hwave
  rw [exec_eq_complete]
  change complete (riseHandler s) = _
  rw [riseHandler_generic hp hhms hesa, riseGeneric_of_producer hp,
    if_pos ((revoltPreamble_iff _ _).2 hwave)]
  rfl

/-- Settles O21. -/
theorem fallingEdgeStoresTheCount : Obligations.FallingEdgeStoresTheCount :=
  fun _ _ hp hhms hesa => exec_eq_next.2 (fallHandler_generic hp hhms hesa)

/-! ### The sync detector -/

theorem inTcmSync_iff (h l : Half) : inTcmSync h l = true ↔
    26 ≤ h.toNat ∧ h.toNat ≤ 33 ∧ 531 ≤ l.toNat ∧ l.toNat ≤ 562 := by
  simp [inTcmSync, and_assoc]

theorem inItSync_iff (h l : Half) : inItSync h l = true ↔
    8 ≤ h.toNat ∧ h.toNat ≤ 37 ∧ 156 ≤ l.toNat ∧ l.toNat ≤ 1062 := by
  simp [inItSync, and_assoc]

/-- Settles O25: the rows of `syncDetect`, each entry of a data state being `startData_of_pos`. -/
theorem syncDetectTable : Obligations.SyncDetectTable := by
  intro s b hp hstate hpos t h l started hwave
  rw [exec_edgeRise_of_generic hp (by simp [hstate]) (by simp [hstate]) hwave, complete_eq_next]
  have hpos : 0 < (captured s).cfg.maxmsg := hpos
  simp only [dispatch, hstate, syncDetect, inTcmSync_iff, inItSync_iff, startData_of_pos hpos, ok_bind]
  by_cases htcm : 26 ≤ h.toNat ∧ h.toNat ≤ 33 ∧ 531 ≤ l.toNat ∧ l.toNat ≤ 562
  · rw [if_pos htcm, if_pos htcm]
    rfl
  · rw [if_neg htcm, if_neg htcm]
    by_cases hit : 8 ≤ h.toNat ∧ h.toNat ≤ 37 ∧ 156 ≤ l.toNat ∧ l.toNat ≤ 1062
    · rw [if_pos hit, if_pos hit]
      rfl
    · rw [if_neg hit, if_neg hit]
      by_cases hlong : 100 < h.toNat ∨ 100 < l.toNat
      · rw [if_pos hlong, if_pos hlong]
      · rw [if_neg hlong, if_neg hlong]
        rfl

/-- After a reset of its input a rising edge that is no Revolt preamble meets the decision table. -/
theorem exec_edgeRise_inputResetWith {s : State} {b : Bucket} (n : List Notice) (hp : isProducer s b)
    (hwave : ¬ isRevoltWave (captured s).hightime (captured s).lowtime) :
    exec .edgeRise (inputResetWith n s) = complete (syncDetect Bucket.cleared (captured s).hightime
      (captured s).lowtime (inputResetWith n (captured s))) := by
  have hcleared : isProducer (inputResetWith n s) Bucket.cleared := isProducer_setProducer hp
  exact exec_edgeRise_of_generic hcleared (by decide) (by decide) hwave

/-- Settles O26: the two branches of `syncStep` that stay with sync pulses; the rerun of the table is a
rising edge in the reset state. -/
theorem syncTrainStep : Obligations.SyncTrainStep := by
  intro s b hp hstate t hwave
  have hdispatch : dispatch b t.hightime t.lowtime t = syncStep b t.hightime t.lowtime t := by
    simp only [dispatch, hstate]
  have hrise := exec_edgeRise_of_generic hp (by simp [hstate]) (by simp [hstate]) hwave
  refine ⟨fun hlike => ?_, fun hother hfew => ?_⟩
  · rw [hrise, hdispatch, syncStep, if_pos hlike]
    rfl
  · rw [hrise, hdispatch, syncStep, if_neg (by simp [hother]), if_neg (by omega), resetInput_eq,
      exec_edgeRise_inputResetWith [] hp hwave]

theorem lockOn_of_pos {s : State} (h : 0 < s.cfg.maxmsg) (st : BucketState) (v : Half) (b : Bucket)
    (hi lo : Half) : lockOn st v b hi lo s = .ok (arm v (setProducer
      { b with
        state := st, one := ⟨hi, lo⟩, byteIdx := 0, bitIdx := 7
        data := Memory.write b.data 0 0 } s)) := by
  simp only [lockOn, startData_of_pos h, ok_bind]

/-- Settles O27: the rows of `classify`, each lock being `lockOn_of_pos`. -/
theorem preambleTable : Obligations.PreambleTable := by
  intro s b hp hstate hpos t h l sum lockedOn hwave hother hmany
  rw [exec_edgeRise_of_generic hp (by simp [hstate]) (by simp [hstate]) hwave, complete_eq_next]
  have hpos : 0 < (captured s).cfg.maxmsg := hpos
  simp only [dispatch, hstate, syncStep, classify, lockOn_of_pos hpos]
  rw [if_neg (by simpa using hother), if_pos hmany]
  by_cases hhms : 12 ≤ b.sync.toNat ∧ 100 < sum
  · rw [if_pos hhms, if_pos hhms]
    rfl
  · rw [if_neg hhms, if_neg hhms]
    by_cases hesa : 10 ≤ b.sync.toNat ∧ sum < 37
    · rw [if_pos hesa, if_pos hesa]
      rfl
    · rw [if_neg hesa, if_neg hesa]
      by_cases hrouter : routerSyncHolds s.cfg b h l = true
      · have hrouter' : routerSyncHolds (captured s).cfg b h l = true := hrouter
        rw [if_pos hrouter, if_pos hrouter', routerHandoff, resetInput_eq]
        rfl
      · have hrouter' : ¬ routerSyncHolds (captured s).cfg b h l = true := hrouter
        rw [if_neg hrouter, if_neg hrouter']
        rfl

/-! ### The bit demodulator -/

/-- Settles O29: the branches of `collectStep`, each bit being `addBit_appends`. -/
theorem collectStepOutcomes : Obligations.CollectStepOutcomes := by
  intro s b hp hstate t h l hwave
  rw [exec_edgeRise_of_generic hp (by simp [hstate]) (by simp [hstate]) hwave]
  simp only [dispatch, hstate, collectStep]
  by_cases hone : waveEquals b.one h l .collect = true
  · rw [if_pos hone, if_pos hone]
    exact addBit_appends _ _ _ _
  · rw [if_neg hone, if_neg hone]
    by_cases hzero : waveEquals b.zero h l .collect = true
    · rw [if_pos hzero, if_pos hzero]
      exact addBit_appends _ _ _ _
    · rw [if_neg hzero, if_neg hzero, resetInput_raise, complete_ok]
      rfl

theorem holdsNoBit_iff (b : Bucket) : holdsNoBit b = true ↔ b.byteIdx = 0 ∧ b.bitIdx = 7 := by
  simp [holdsNoBit]

/-- Settles O30: with a bit held `itStep` is its comparison. -/
theorem intertechnoStepOutcomes : Obligations.IntertechnoStepOutcomes := by
  intro s b hp hstate hheld t h l hwave
  rw [exec_edgeRise_of_generic hp (by simp [hstate]) (by simp [hstate]) hwave]
  simp only [dispatch, hstate, itStep, itCompare]
  rw [if_neg (mt (holdsNoBit_iff b).1 hheld)]
  by_cases hone : waveEquals b.one h l .it = true
  · rw [if_pos hone, if_pos hone]
    exact addBit_appends _ _ _ _
  · rw [if_neg hone, if_neg hone]
    by_cases hzero : waveEquals b.zero h l .it = true
    · rw [if_pos hzero, if_pos hzero]
      exact addBit_appends _ _ _ _
    · rw [if_neg hzero, if_neg hzero, complete_ok]

/-- A bit write replaces the producer bucket, so it does not see an earlier write of it (R180). -/
theorem addBit_setProducer (b c : Bucket) (bit : Bool) (upd : Bucket → Bucket) (s : State) :
    addBit b bit upd (setProducer c s) = addBit b bit upd s := by
  have hset (d : Bucket) : setProducer d (setProducer c s) = setProducer d s := by
    simp [setProducer]
  by_cases h : b.byteIdx.toNat < s.cfg.maxmsg
  · simp only [addBit, setProducer_cfg, pushBit_of_lt bit h, ok_bind, hset]
  · simp only [addBit, setProducer_cfg, pushBit_of_full bit (Nat.le_of_not_lt h), ok_bind]
    simp [resetInput, raise, setProducer]

/-- A wave equals itself under any tolerance (R171). -/
theorem waveEquals_self (h l : Half) (st : BucketState) : waveEquals ⟨h, l⟩ h l st = true := by
  cases st <;> simp [waveEquals, absDiff, tolerance, TDIFF, TDIFFIT]

/-- A wave equals its exchanged form in IT when its times differ by less than TDIFFIT (R171). -/
theorem waveEquals_swapped_iff (h l : Half) :
    waveEquals ⟨l, h⟩ h l .it = true ↔ h.toNat < l.toNat + 21 ∧ l.toNat < h.toNat + 21 := by
  simp only [waveEquals, tolerance, if_pos, TDIFFIT, absDiff, Bool.and_eq_true, decide_eq_true_eq]
  omega

theorem lowIsLonger_iff (h l : Half) : lowIsLonger h l = true ↔ h.toNat + 1 < l.toNat := by
  simp only [lowIsLonger, decide_eq_true_eq]
  omega

theorem isStartMarker_iff (l : Half) : isStartMarker l = true ↔ 150 < l.toNat := by
  simp [isStartMarker]

theorem itv3Bit_eq (h l : Half) : itv3Bit h l = decide (h.toNat + 12 < l.toNat) := by
  simp only [itv3Bit, TDIFF]
  congr 1
  apply propext
  omega

/-- The first wave of an IT bucket becomes its first bit (R184, R185). -/
theorem itStep_first_wave {b : Bucket} {h l : Half} (s : State) (hnone : holdsNoBit b = true)
    (hl : l.toNat ≤ 150) :
    itStep b h l s = itCompare (initialRefs b h l) h l (setProducer (initialRefs b h l) s) := by
  rw [itStep, if_pos hnone, if_neg (mt (isStartMarker_iff l).1 (by omega))]

/-- The first wave of an ITV3 bucket becomes its first bit (R185, R186). -/
theorem itv3Step_first_wave {b : Bucket} {h l : Half} (s : State) (hnone : holdsNoBit b = true)
    (hl : l.toNat ≤ 150) :
    itv3Step b h l s = addBit (initialRefs b h l) (itv3Bit h l) id s := by
  rw [itv3Step, if_pos hnone, if_neg (mt (isStartMarker_iff l).1 (by omega)), addBit_setProducer]

theorem enterItv3_of_pos {s : State} (h : 0 < s.cfg.maxmsg) (b : Bucket) :
    enterItv3 b s = .ok (arm SILENCE (setProducer
      { b with
        state := .itv3, byteIdx := 0, bitIdx := 7, data := Memory.write b.data 0 0 } s)) := by
  simp only [enterItv3, startData_of_pos h, ok_bind]

/-- Settles O31: a start marker is `enterItv3`; any other first wave sets the references
(`initialRefs`) and is compared with them, or is the ITV3 bit. -/
theorem initialEdgeOutcomes : Obligations.InitialEdgeOutcomes := by
  intro s b hp hbyte hbit hpos t h l hwave
  have hnone : holdsNoBit b = true := (holdsNoBit_iff b).2 ⟨hbyte, hbit⟩
  have hit (hst : b.state = .it) : exec .edgeRise s = complete (itStep b h l t) := by
    rw [exec_edgeRise_of_generic hp (by simp [hst]) (by simp [hst]) hwave]
    simp only [dispatch, hst, t, h, l]
  have hitv3 (hst : b.state = .itv3) : exec .edgeRise s = complete (itv3Step b h l t) := by
    rw [exec_edgeRise_of_generic hp (by simp [hst]) (by simp [hst]) hwave]
    simp only [dispatch, hst, t, h, l]
  refine ⟨fun hl hst => ?_, fun hl hst hlong => ?_, fun hl hst hlonger hnear => ?_,
    fun hl hst hshort => ?_, fun hl hst hlonger => ?_, fun hl hst hshort => ?_⟩
  · have hmarker := (isStartMarker_iff l).2 hl
    have henter := enterItv3_of_pos (s := t) hpos b
    rcases hst with hst | hst
    · rw [hit hst, itStep, if_pos hnone, if_pos hmarker, henter]
      rfl
    · rw [hitv3 hst, itv3Step, if_pos hnone, if_pos hmarker, henter]
      rfl
  · have hrefs : initialRefs b h l = { b with zero := ⟨h, l⟩, one := ⟨l, h⟩ } := by
      rw [initialRefs, if_pos hst, if_pos ((lowIsLonger_iff h l).2 (by omega))]
    rw [hit hst, itStep_first_wave t hnone hl, hrefs, itCompare,
      if_neg (mt (waveEquals_swapped_iff h l).1 (by omega)), if_pos (waveEquals_self h l .it),
      addZero, addBit_setProducer]
    exact addBit_appends _ _ _ _
  · have hrefs : initialRefs b h l = { b with zero := ⟨h, l⟩, one := ⟨l, h⟩ } := by
      rw [initialRefs, if_pos hst, if_pos ((lowIsLonger_iff h l).2 hlonger)]
    rw [hit hst, itStep_first_wave t hnone hl, hrefs, itCompare,
      if_pos ((waveEquals_swapped_iff h l).2 (by omega)), addOne, addBit_setProducer]
    exact addBit_appends _ _ _ _
  · have hrefs : initialRefs b h l = { b with one := ⟨h, l⟩, zero := ⟨l, h⟩ } := by
      rw [initialRefs, if_pos hst, if_neg (mt (lowIsLonger_iff h l).1 (by omega))]
    rw [hit hst, itStep_first_wave t hnone hl, hrefs, itCompare, if_pos (waveEquals_self h l .it),
      addOne, addBit_setProducer]
    exact addBit_appends _ _ _ _
  · have hrefs : initialRefs b h l = { b with one := ⟨h, l⟩, zero := ⟨h, h⟩ } := by
      rw [initialRefs, if_neg (by simp [hst]), if_pos ((lowIsLonger_iff h l).2 hlonger)]
    rw [hitv3 hst, itv3Step_first_wave t hnone hl, hrefs, itv3Bit_eq]
    exact addBit_appends _ _ _ _
  · have hrefs : initialRefs b h l =
        { b with zero := ⟨h, BitVec.ofNat 16 (5 * h.toNat)⟩, one := ⟨h, l⟩ } := by
      rw [initialRefs, if_neg (by simp [hst]), if_neg (mt (lowIsLonger_iff h l).1 (by omega))]
    rw [hitv3 hst, itv3Step_first_wave t hnone hl, hrefs, itv3Bit_eq, decide_eq_false (by omega)]
    exact addBit_appends _ _ _ _

/-- Settles O32: the branches of the fixed-threshold states, each bit being `addBit_appends`. -/
theorem fixedThresholdSteps : Obligations.FixedThresholdSteps := by
  intro s b hp t h l hwave
  have hrise (hhms : b.state ≠ .hms) (hesa : b.state ≠ .esa) :
      exec .edgeRise s = complete (dispatch b h l t) :=
    exec_edgeRise_of_generic hp hhms hesa hwave
  have hitv3 (hst : b.state = .itv3) : exec .edgeRise s = complete (itv3Step b h l t) := by
    rw [hrise (by simp [hst]) (by simp [hst])]; simp only [dispatch, hst]
  have htcm (hst : b.state = .tcm97001) : exec .edgeRise s = complete (tcmStep b l t) := by
    rw [hrise (by simp [hst]) (by simp [hst])]; simp only [dispatch, hst]
  have hrevolt (hst : b.state = .revolt) : exec .edgeRise s = complete (revoltStep b h l t) := by
    rw [hrise (by simp [hst]) (by simp [hst])]; simp only [dispatch, hst]
  refine ⟨fun hst hheld => ?_, fun hst hzero => ?_, fun hst hone => ?_, fun hst hzero hone => ?_,
    fun hst hshort => ?_, fun hst hlong => ?_, fun hst => ?_⟩
  · rw [hitv3 hst, itv3Step, if_neg (mt (holdsNoBit_iff b).1 hheld), itv3Bit_eq]
    exact addBit_appends _ _ _ _
  · rw [htcm hst, tcmStep, if_pos hzero]
    exact addBit_appends _ _ _ _
  · rw [htcm hst, tcmStep, if_neg (by omega), if_pos hone]
    exact addBit_appends _ _ _ _
  · rw [htcm hst, tcmStep, if_neg hzero, if_neg hone, complete_ok]
  · rw [hrevolt hst, revoltStep, if_pos hshort]
    exact addBit_appends _ _ _ _
  · rw [hrevolt hst, revoltStep, if_neg (by omega)]
    exact addBit_appends _ _ _ _
  · rw [hrise (by simp [hst]) (by simp [hst])]
    simp only [dispatch, hst, complete_ok]

/-! ### The Manchester rule -/

/-- A bit write does not see the timer (R180). -/
theorem addBit_set_tcnt (b : Bucket) (bit : Bool) (upd : Bucket → Bucket) (s : State) (v : Half) :
    (addBit b bit upd s >>= fun t => .ok { t with tcnt := v }) =
      addBit b bit upd { s with tcnt := v } := by
  by_cases h : b.byteIdx.toNat < s.cfg.maxmsg
  · simp only [addBit, pushBit_of_lt bit h, ok_bind]
    rfl
  · simp only [addBit, pushBit_of_full bit (Nat.le_of_not_lt h), ok_bind]
    rfl

/-- What the handler of an edge makes of the Manchester rule's answer (R112, R113). -/
def continueEdge (generic : State → Except Fault State) : EdgeResult → Except Fault State
  | .consumed s => .ok s
  | .fallthrough s => generic s

theorem fallHandler_of_manchester {s : State} {b : Bucket} (hp : isProducer s b)
    (hm : b.state = .hms ∨ b.state = .esa) :
    fallHandler s = manchesterEdge b false (scale s.cfg s.tcnt) s >>=
      continueEdge fun t => .ok { t with hightime := scale s.cfg s.tcnt } := by
  rw [fallHandler, manchesterFirst_of_producer _ _ hp hm]
  rfl

theorem riseHandler_of_manchester {s : State} {b : Bucket} (hp : isProducer s b)
    (hm : b.state = .hms ∨ b.state = .esa) :
    riseHandler s = manchesterEdge b true (scale s.cfg s.tcnt) s >>=
      continueEdge (riseGeneric (scale s.cfg s.tcnt)) := by
  rw [riseHandler, manchesterFirst_of_producer _ _ hp hm]
  rfl

/-- The rule's window in HMS and ESA (R190). -/
theorem manchesterWindow_eq {b : Bucket} {lo hi : Nat}
    (hwindow : (b.state = .hms ∧ lo = 46 ∧ hi = 78) ∨ (b.state = .esa ∧ lo = 23 ∧ hi = 39)) :
    (b.state = .hms ∨ b.state = .esa) ∧ manchesterWindow b.state = (lo, hi) ∧ lo ≤ hi := by
  rcases hwindow with ⟨hst, rfl, rfl⟩ | ⟨hst, rfl, rfl⟩ <;> simp [hst, manchesterWindow]

section
variable {b : Bucket} {lo hi : Nat} (level : Bool) {c : Half} (s : State)
  (generic : State → Except Fault State) (hwindow : manchesterWindow b.state = (lo, hi))
include hwindow

/-- An edge before the window is consumed without effect (R190). -/
theorem manchesterEdge_of_short (h : c.toNat < lo) :
    (manchesterEdge b level c s >>= continueEdge generic) = .ok s := by
  rw [manchesterEdge, hwindow, if_pos h]
  rfl

/-- An edge in the window is a bit and restarts the timer (R190). -/
theorem manchesterEdge_of_inside (hlo : lo ≤ c.toNat) (hhi : c.toNat ≤ hi) :
    (manchesterEdge b level c s >>= continueEdge generic) =
      addBit b (!level) id { s with tcnt := 0 } := by
  rw [manchesterEdge, hwindow, if_neg (Nat.not_lt.2 hlo), if_neg (Nat.not_lt.2 hhi),
    ← addBit_set_tcnt b (!level) id s 0]
  cases addBit b (!level) id s <;> rfl

/-- An edge past the window resets the input and goes on in the generic path (R190). -/
theorem manchesterEdge_of_long (hlo : lo ≤ hi) (h : hi < c.toNat) :
    (manchesterEdge b level c s >>= continueEdge generic) =
      generic (inputResetWith [.pulseTooLong s.inIdx] s) := by
  rw [manchesterEdge, hwindow, if_neg (Nat.not_lt.2 (hlo.trans h.le)), if_pos h, resetInput_raise]
  rfl
end

/-- Settles O22: the three sides of the window on a falling edge. -/
theorem manchesterFallingEdge : Obligations.ManchesterFallingEdge := by
  intro s b lo hi hp hrow c
  obtain ⟨hm, hwindow, hle⟩ := manchesterWindow_eq hrow
  have hfall : exec .edgeFall s = complete (manchesterEdge b false (scale s.cfg s.tcnt) s >>=
      continueEdge fun t => .ok { t with hightime := scale s.cfg s.tcnt }) := by
    rw [← fallHandler_of_manchester hp hm]
    rfl
  rw [hfall]
  refine ⟨fun hshort => ?_, fun hlo hhi => ?_, fun hlong => ?_⟩
  · rw [manchesterEdge_of_short false s _ hwindow hshort, complete_ok]
  · rw [manchesterEdge_of_inside false s _ hwindow hlo hhi]
    exact addBit_appends _ _ _ _
  · rw [manchesterEdge_of_long false s _ hwindow hle hlong, complete_ok]

/-- Settles O23: the three sides of the window on a rising edge; past it the edge is the generic one on
the cleared bucket. -/
theorem manchesterRisingEdge : Obligations.ManchesterRisingEdge := by
  intro s b lo hi hp hrow c
  obtain ⟨hm, hwindow, hle⟩ := manchesterWindow_eq hrow
  have hrise : exec .edgeRise s = complete (manchesterEdge b true (scale s.cfg s.tcnt) s >>=
      continueEdge (riseGeneric (scale s.cfg s.tcnt))) := by
    rw [← riseHandler_of_manchester hp hm]
    rfl
  refine ⟨fun hshort => ?_, fun hlo hhi => ?_, fun hlong => ?_⟩
  · rw [hrise, manchesterEdge_of_short true s _ hwindow hshort, complete_ok]
  · rw [hrise, manchesterEdge_of_inside true s _ hwindow hlo hhi]
    exact addBit_appends _ _ _ _
  · have hcleared : isProducer (inputResetWith [.pulseTooLong s.inIdx] s) Bucket.cleared :=
      isProducer_setProducer hp
    rw [hrise, manchesterEdge_of_long true s _ hwindow hle hlong, exec_eq_complete]
    change _ = complete (riseHandler _)
    rw [riseHandler_generic hcleared (by decide) (by decide)]
    rfl

end Sys2Proof.Machine

/-! ## PROOF. The deduplicator, the emitter and the poll around them (R210, R235, R260 to R277). -/

namespace Sys2Proof.Machine

/-! ### The deduplicator -/

/-- The frame is a synthetic repeat: an FHT control frame while REP_FHTPROTO is clear (R264). -/
def SyntheticRepeat (dt : Datatype) (s : State) : Prop :=
  dt = .fht ∧ s.txReport.getLsbD 6 = false ∧
    (Memory.read s.obuf s.cfg.fhtCtrlIndex ∈ s.cfg.fhtCtrl ∨ Memory.read s.obuf 3 &&& 0x70 = 0x70)

/-- The frame has the filter's items within the repeat window, and the comparison is on (R261). -/
def RepeatsFilter (s : State) : Prop :=
  s.txReport.getLsbD 1 = false ∧ itemCount s = s.roby.toNat ∧
    (∀ j < itemCount s, Memory.read s.obuf j = Memory.read s.robuf j) ∧
    (s.ticks - s.repTime).toNat < s.cfg.reptime.toNat

/-- The repeat flag of a frame within its arrays (R261, R264). -/
theorem repeatFlag_iff {dt : Datatype} {s : State} {rep : Bool} (hlegal : s.configured)
    (hs : ScratchOk s) (h : repeatFlag dt s = .ok rep) :
    rep = true ↔ RepeatsFilter s ∨ SyntheticRepeat dt s := by
  rw [repeatFlag, repeatOfFilter_eq hs, ok_bind] at h
  by_cases hfht : dt = .fht ∧ reportFlag s.txReport REP_FHTPROTO = false
  · rw [if_pos hfht, fhtControlFrame_eq hlegal, ok_bind] at h
    cases h
    obtain ⟨hdt, hproto⟩ := hfht
    have hproto : s.txReport.getLsbD 6 = false := hproto
    simp only [Bool.or_eq_true, decide_eq_true_eq, RepeatsFilter, SyntheticRepeat, hdt, hproto,
      true_and]
  · rw [if_neg hfht] at h
    cases h
    have hnone : ¬ SyntheticRepeat dt s := fun hsyn => hfht ⟨hsyn.1, hsyn.2.1⟩
    simp [RepeatsFilter, hnone]

theorem needsConfirmation_iff (dt : Datatype) :
    needsConfirmation dt = true ↔ dt = .it ∨ dt = .tcm97001 := by
  simp [needsConfirmation]

/-- Settles O51: the deduplicator answers (`dedup_total`), its frame is `dedup_frame`, and its repeat
flag is `repeatFlag_iff`. -/
theorem dedupOutcome : Obligations.DedupOutcome := by
  intro dt s hlegal hs m repeated synthetic
  obtain ⟨t, ht⟩ := dedup_total (dt := dt) hlegal hs
  obtain ⟨rep, hrep, hisRep, hframe, hnotRep, hok⟩ := dedup_frame ht
  have hflag : t.isRep = true ↔ repeated ∨ synthetic := hisRep ▸ repeatFlag_iff hlegal hs hrep
  have hcount : t.roby.toNat = m := by
    obtain ⟨-, -, -, hmax, -⟩ := hlegal
    have hitems : m ≤ s.cfg.maxmsg := hs.items
    rw [hframe]
    exact Nat.mod_eq_of_lt (by omega : m < 2 ^ 8)
  refine ⟨t, ht, hflag, fun hdt => ?_, fun hit htcm => ?_, hcount, ?_⟩
  · have hconfirm := (needsConfirmation_iff dt).2 hdt
    simp only [hnotRep, hok, hisRep, hconfirm, if_true, Bool.true_and, Bool.or_eq_true,
      Bool.and_eq_true, Bool.not_eq_true', and_self]
  · have hplain : needsConfirmation dt = false := by simp [needsConfirmation, hit, htcm]
    simp [hnotRep, hok, hisRep, hplain]
  · have hroby : t.roby = BitVec.ofNat 8 (itemCount s) := by rw [hframe]
    rw [hroby]
    exact hframe

/-- A frame that comes again within the repeat window is a repeat of itself (R261, R262). -/
theorem dedup_again_isRep {dt : Datatype} {s t u : State} {n : Word} (hlegal : s.configured)
    (hs : ScratchOk s) (hcompare : s.txReport.getLsbD 1 = false)
    (hn : n.toNat < s.cfg.reptime.toNat) (ht : dedup dt s = .ok t)
    (hu : dedup dt { t with ticks := t.ticks + n } = .ok u) : u.isRep = true := by
  have hitems : itemCount s ≤ s.cfg.maxmsg := hs.items
  obtain ⟨hrobuf, hroby⟩ := dedup_replaces_filter hlegal hitems ht
  obtain ⟨rep, -, -, hframe, -⟩ := dedup_frame ht
  have hcfg : t.cfg = s.cfg := by rw [hframe]
  have hreport : t.txReport = s.txReport := by rw [hframe]
  have htime : t.repTime = t.ticks := by rw [hframe]
  have hst := dedup_scratchOk hs ht
  have hlegal' : State.configured { t with ticks := t.ticks + n } := by
    show legalConfig t.cfg
    rwa [hcfg]
  have hs' : ScratchOk { t with ticks := t.ticks + n } :=
    ⟨hst.obufWf, hst.robufWf, hst.items, hst.filterItems⟩
  obtain ⟨rep, hrep, hisRep, -⟩ := dedup_frame hu
  rw [hisRep, repeatFlag_iff hlegal' hs' hrep]
  refine .inl ⟨hreport ▸ hcompare, hroby.symm, fun j _ => by rw [hrobuf], ?_⟩
  show (t.ticks + n - t.repTime).toNat < t.cfg.reptime.toNat
  rw [htime, hcfg]
  have hdiff : t.ticks + n - t.ticks = n := by bv_omega
  rwa [hdiff]

/-- Settles O52: the second and the third frame are repeats (`dedup_again_isRep`); `isNotRep` is clear
at the second and set at the third. -/
theorem twoOfTwoConfirmation : Obligations.TwoOfTwoConfirmation := by
  intro dt s t₁ t₂ t₃ n₂ n₃ hdt hlegal hs hcompare hnot hn₂ hn₃ h₁ hfirst h₂ h₃
  have hconfirm := (needsConfirmation_iff dt).2 hdt
  obtain ⟨rep₁, -, hrep₁, hframe₁, hnot₁, hok₁⟩ := dedup_frame h₁
  obtain ⟨rep₂, -, hrep₂, -, hnot₂, hok₂⟩ := dedup_frame h₂
  obtain ⟨rep₃, -, hrep₃, -, -, hok₃⟩ := dedup_frame h₃
  have hcfg₁ : t₁.cfg = s.cfg := by rw [hframe₁]
  have hreport₁ : t₁.txReport = s.txReport := by rw [hframe₁]
  have hs₁ := dedup_scratchOk hs h₁
  have hsecond : t₂.isRep = true := dedup_again_isRep hlegal hs hcompare hn₂ h₁ h₂
  have hthird : t₃.isRep = true :=
    dedup_again_isRep (s := { t₁ with ticks := t₁.ticks + n₂ })
      (by show legalConfig t₁.cfg; rwa [hcfg₁])
      ⟨hs₁.obufWf, hs₁.robufWf, hs₁.items, hs₁.filterItems⟩ (hreport₁ ▸ hcompare)
      (by show n₃.toNat < t₁.cfg.reptime.toNat; rwa [hcfg₁]) h₂ h₃
  rw [hrep₁] at hfirst
  rw [hrep₂] at hsecond
  rw [hrep₃] at hthird
  simp only [hconfirm, if_true, Bool.true_and] at hnot₁ hok₁ hnot₂ hok₂ hok₃
  simp [hok₁, hok₂, hok₃, hfirst, hsecond, hthird, hnot₁, hnot₂, hnot]

/-! ### The emitter -/

/-- A nibble's digit in numbers (R15). -/
theorem hex1_eq (n : BitVec 4) :
    hex1 n = BitVec.ofNat 8 (if n.toNat ≤ 9 then 0x30 + n.toNat else 0x41 + (n.toNat - 10)) := by
  decide +revert

theorem hiNibble_toNat (v : Byte) : (hiNibble v).toNat = v.toNat / 16 := by
  have : v.toNat < 2 ^ 8 := v.isLt
  rw [hiNibble, BitVec.extractLsb'_toNat, Nat.shiftRight_eq_div_pow]
  omega

theorem loNibble_toNat (v : Byte) : (loNibble v).toNat = v.toNat % 16 := by
  rw [loNibble, BitVec.extractLsb'_toNat, Nat.shiftRight_zero]

theorem emitFrame_of_silent {dt : Datatype} {s : State}
    (h : s.packageOK = false ∨ s.txReport.getLsbD 0 = false) : emitFrame dt s = .ok s := by
  refine if_neg fun hemit => ?_
  simp only [reportFlag, REP_KNOWN, Bool.and_eq_true] at hemit
  rcases h with h | h
  · rw [h] at hemit; exact absurd hemit.1 (by decide)
  · rw [h] at hemit; exact absurd hemit.2 (by decide)

/-- Pairs laid side by side. -/
theorem length_flatMap_of_pairs {f : Byte → List Byte} (hf : ∀ v, (f v).length = 2)
    (bytes : List Byte) : (bytes.flatMap f).length = 2 * bytes.length := by
  induction bytes with
  | nil => rfl
  | cons v bytes ih => rw [List.flatMap_cons, List.length_append, hf, ih, List.length_cons]; ring

/-- Settles O53: the line is `frameLine_eq`, its digits `hex1_eq`; every byte gives two of them. -/
theorem frameLineIsEmitted : Obligations.FrameLineIsEmitted := by
  intro dt s hlegal hs
  refine ⟨emitFrame_of_silent, ?_⟩
  intro hok hknown digit pair c character bytes line
  constructor
  · have hdigit (n : BitVec 4) : digit n.toNat = hex1 n := (hex1_eq n).symm
    have hpair : pair = hex2 := funext fun v => by
      show [digit (v.toNat / 16), digit (v.toNat % 16)] = _
      rw [← hiNibble_toNat, ← loNibble_toNat, hdigit, hdigit, hex2]
    have hcharacter : character = typeChar s.cfg.typeChars dt := by cases dt <;> rfl
    have hemit : emitFrame dt s = frameLine dt s >>= fun line => .ok (emit line s) :=
      if_pos (by simp [hok, reportFlag, REP_KNOWN, hknown])
    rw [hemit, frameLine_eq hs, ok_bind, rssiPair, newline, ← hdigit, loNibble_toNat, ← hcharacter,
      ← hpair]
    rfl
  · have hbytes : (bytes.flatMap pair).length = 2 * s.oby.toNat := by
      rw [length_flatMap_of_pairs fun _ => rfl, List.length_map, List.length_range]
    simp only [line, List.length_append, hbytes]
    cases s.nibble <;> cases s.txReport.getLsbD 5 <;> simp [pair]

/-! ### The poll -/

/-- A poll of a committed bucket leaves the analyzers' datatype and scratch (R210, R211). -/
theorem PollOutcome.analysis {s t : State} (h : PollOutcome s t) (hused : s.nrUsed ≠ 0) :
    ∃ b a, isConsumer s b ∧ runAnalyzers s.cfg s.hightime b analyzerOrder (scratchOf s) = .ok a ∧
      t.datatype = a.verdict ∧ t.obuf = a.scratch.obuf ∧ t.oby = a.scratch.oby ∧
      t.nibble = a.scratch.nibble := by
  cases h with
  | empty hempty => exact absurd hempty hused
  | fail b a _ hb hrun => exact ⟨b, a, hb, hrun, rfl, rfl, rfl, rfl⟩
  | frame b a dt u _ hb hrun _ hdeliver =>
    refine ⟨b, a, hb, hrun, ?_⟩
    rw [release_datatype, release_obuf, release_oby, release_nibble, (deliver_frame hdeliver).rest]
    exact ⟨rfl, rfl, rfl, rfl⟩

/-- A delivered frame is classified (R210). -/
theorem deliver_datatype {dt : Datatype} {s t : State} {a : Analysis} (hv : a.verdict = some dt)
    (h : deliver dt (setScratch a s) = .ok t) : t.datatype = some dt := by
  rw [(deliver_frame h).rest]
  exact hv

/-- Settles O38: a poll that leaves no datatype is the one whose analyzers all fail. -/
theorem unclassifiedFrameIsDropped : Obligations.UnclassifiedFrameIsDropped := by
  intro s t hused hpoll hnone
  cases pollHandler_cases (exec_eq_next.1 hpoll) with
  | empty hempty => exact absurd hempty hused
  | fail => exact ⟨rfl, rfl, rfl, rfl, rfl, rfl, rfl, rfl, rfl⟩
  | frame b a dt u _ _ _ hv hdeliver =>
    rw [release_datatype, deliver_datatype hv hdeliver] at hnone
    cases hnone

/-- Settles O55: of the two outcomes of a poll with a bucket only the delivery calls, and what it calls
is named by `deliver_frame`. -/
theorem fhtHookForEveryFhtFrame : Obligations.FhtHookForEveryFhtFrame := by
  intro s t hused hpoll
  cases pollHandler_cases (exec_eq_next.1 hpoll) with
  | empty hempty => exact absurd hempty hused
  | fail b a _ _ _ hv => simp [hv]
  | frame b a dt u _ _ _ hv hdeliver =>
    have hdatatype := deliver_datatype hv hdeliver
    have hrest := (deliver_frame hdeliver).rest
    have hobuf : u.obuf = (setScratch a s).obuf := by rw [hrest]
    have hoby : u.oby = (setScratch a s).oby := by rw [hrest]
    have hcalls : u.calls = s.calls ++ if dt = .fht then
        [.fhtHook ((List.range (setScratch a s).oby.toNat).map
          (Memory.read (setScratch a s).obuf))] else [] := by
      rw [hrest]
      rfl
    simp only [release_calls, release_datatype, release_oby, release_obuf, hcalls, hdatatype, hobuf,
      hoby, Option.some.injEq]

/-- Settles O54: only the emitter of a delivered frame writes the sink, and it is silent
(`emitFrame_of_silent`). -/
theorem noFrameLineWithoutRepKnown : Obligations.NoFrameLineWithoutRepKnown := by
  intro s t hunknown hpoll
  cases pollHandler_cases (exec_eq_next.1 hpoll) with
  | empty => rfl
  | fail => rfl
  | frame b a dt v _ _ _ _ hdeliver =>
    obtain ⟨u, bytes, hdedup, hemit, -⟩ := deliver_passes hdeliver
    obtain ⟨rep, -, hu⟩ := dedup_shape hdedup
    have hreport : u.txReport = s.txReport := by rw [hu]; simp
    have hsink : u.sink = s.sink := by rw [hu]; simp
    rw [emitFrame_of_silent (.inr (hreport ▸ hunknown))] at hemit
    cases hemit
    exact hsink

/-- The search through the analyzers answers alike from any two scratches (R235). -/
theorem runAnalyzers_sameVerdict (cfg : Config) (hightime : Half) (b : Bucket) (l : List Analyzer)
    (sc₁ sc₂ : Scratch) :
    SameVerdict (runAnalyzers cfg hightime b l sc₁) (runAnalyzers cfg hightime b l sc₂) := by
  induction l generalizing sc₁ sc₂ with
  | nil => exact .fail _ _
  | cons a l ih =>
    unfold runAnalyzers
    by_cases hon : a ∈ cfg.enabled
    · rw [if_pos hon, if_pos hon]
      have hsame := analyze_sameVerdict a cfg hightime b sc₁ sc₂
      generalize analyze a cfg hightime b sc₁ = r₁, analyze a cfg hightime b sc₂ = r₂ at hsame
      cases hsame with
      | same => exact .same _
      | fail out₁ out₂ => exact ih out₁ out₂
    · rw [if_neg hon, if_neg hon]
      exact ih sc₁ sc₂

/-- Settles O39: both polls search the same analyzers on the same bucket, from other scratches. -/
theorem classifierIsDeterminedByBucketAndHightime :
    Obligations.ClassifierIsDeterminedByBucketAndHightime := by
  intro s₁ s₂ t₁ t₂ b hcfg htime hb₁ hb₂ hused₁ hused₂ hpoll₁ hpoll₂
  obtain ⟨b₁, a₁, hc₁, hrun₁, hd₁, ho₁, hy₁, hn₁⟩ :=
    (pollHandler_cases (exec_eq_next.1 hpoll₁)).analysis hused₁
  obtain ⟨b₂, a₂, hc₂, hrun₂, hd₂, ho₂, hy₂, hn₂⟩ :=
    (pollHandler_cases (exec_eq_next.1 hpoll₂)).analysis hused₂
  obtain rfl : b = b₁ := Option.some.inj (hb₁.symm.trans hc₁)
  obtain rfl : b = b₂ := Option.some.inj (hb₂.symm.trans hc₂)
  have hsame := runAnalyzers_sameVerdict s₁.cfg s₁.hightime b analyzerOrder (scratchOf s₁)
    (scratchOf s₂)
  rw [hrun₁, hcfg, htime, hrun₂] at hsame
  rw [hd₁, hd₂, ho₁, ho₂, hy₁, hy₂, hn₁, hn₂]
  cases hsame with
  | same => exact ⟨rfl, fun _ => ⟨rfl, rfl, rfl⟩⟩
  | fail => exact ⟨rfl, fun hsome => absurd rfl hsome⟩

/-- A list of analyzers split at one of them is the table of the statements split at its row. -/
theorem analyzerTable_split {cfg : Config} {hightime : Half} {b : Bucket} {a : Analyzer}
    {before after : List Analyzer} (h : analyzerOrder = before ++ a :: after) :
    analyzerTable cfg hightime b =
      before.map (fun x => (x, analyze x cfg hightime b)) ++ (a, analyze a cfg hightime b) ::
        after.map fun x => (x, analyze x cfg hightime b) := by
  rw [analyzerTable_eq, h, List.map_append, List.map_cons]

/-- Settles O37: the poll completes (`everyClassifiedFrameBecomesTheFilter`) and writes the consumer's
side alone (`PollOutcome.consumer_frame`); its datatype and frame are those of the search through the
analyzers (`runAnalyzers_cases`). -/
theorem pollReleasesOneBucket : Obligations.PollReleasesOneBucket := by
  intro s hinv hused
  obtain ⟨t, hpoll, -⟩ := everyClassifiedFrameBecomesTheFilter s hinv hused
  have houtcome := pollHandler_cases (exec_eq_next.1 hpoll)
  obtain ⟨b, a, hb, hrun, hdatatype, hobuf, hoby, hnibble⟩ := houtcome.analysis hused
  have hsound : BucketOk s.cfg b := hinv.ring.bucketsOk b (List.mem_of_getElem? hb)
  obtain ⟨r, hr, hcases⟩ :=
    runAnalyzers_cases hinv.legal s.hightime b hsound analyzerOrder (scratchOf s)
  obtain rfl : a = r := Except.ok.inj (hrun.symm.trans hr)
  obtain ⟨hnone, -⟩ | ⟨-, hframe⟩ := houtcome.consumer_frame
  · exact absurd hnone hused
  obtain ⟨h2, h255, -⟩ := hinv.legal
  have hsucc : (ringSucc s.cfg s.outIdx).toNat = (s.outIdx.toNat + 1) % s.cfg.nBuckets :=
    ringSucc_toNat (by omega) (by omega)
  have hcount : (s.nrUsed - 1).toNat + 1 = s.nrUsed.toNat := release_nrUsed_add_one hused
  refine ⟨b, t, hb, hpoll, ?_, ?_⟩
  · rcases hcases with ⟨hv, hall⟩ | ⟨before, x, after, dt, horder, hbefore, hon, haccepts, hv, hzero⟩
    · refine .inl ⟨hdatatype.trans hv, ?_⟩
      rw [analyzerTable_eq, List.forall_mem_map]
      exact hall
    · refine .inr ⟨_, _, _, dt, a.scratch, analyzerTable_split horder, ?_, hon, haccepts,
        hdatatype.trans hv, hobuf, hoby, hnibble, ?_⟩
      · rw [List.forall_mem_map]
        exact hbefore
      · rw [hobuf, hoby, hnibble]
        exact hzero
  · rw [hframe]
    exact ⟨rfl, hsucc, hcount, rfl, rfl, rfl, rfl, rfl, rfl, rfl, rfl, rfl, rfl, rfl, rfl, rfl⟩

end Sys2Proof.Machine

/-! ## PROOF. What no event reads (R14, R54, R277): an event does the same, record for record, when the
traces are longer, the `refused` bit is another, or an unread report flag is. -/

namespace Sys2Proof.Machine

/-! ### Updates the demodulator does not see -/

/-- An update of fields that the rules of an edge neither read nor write: it commutes with all they do to
the state. -/
structure EdgeBlind (F : State → State) : Prop where
  cfg : ∀ s, (F s).cfg = s.cfg
  inIdx : ∀ s, (F s).inIdx = s.inIdx
  setProducer : ∀ b s, setProducer b (F s) = F (setProducer b s)
  resetInput : ∀ s, resetInput (F s) = F (resetInput s)
  arm : ∀ v s, arm v (F s) = F (arm v s)
  raise : ∀ n s, raise n (F s) = F (raise n s)
  hook : ∀ c s, hook c (F s) = F (hook c s)

@[simp] theorem map_ok {α β : Type} (f : α → β) (a : α) :
    Except.map (ε := Fault) f (.ok a) = .ok (f a) := rfl

@[simp] theorem map_error {α β : Type} (f : α → β) (e : Fault) :
    Except.map f (.error e : Except Fault α) = .error e := rfl

/-- A sequence commutes with an update when both its parts do. -/
theorem bind_map {α β γ δ : Type} (x : Except Fault α) (f : α → β) (g : β → Except Fault γ)
    (k : α → Except Fault δ) (u : δ → γ) (h : ∀ a, g (f a) = (k a).map u) :
    (x.map f >>= g) = (x >>= k).map u := by
  cases x with
  | error e => rfl
  | ok a => exact h a

/-- A sequence commutes with an update of its outcome when its continuation does. -/
theorem bind_eq_map {α γ δ : Type} (x : Except Fault α) (g : α → Except Fault γ)
    (k : α → Except Fault δ) (u : δ → γ) (h : ∀ a, g a = (k a).map u) :
    (x >>= g) = (x >>= k).map u := by
  cases x with
  | error e => rfl
  | ok a => exact h a

section
variable {F : State → State} (hF : EdgeBlind F)
include hF

theorem addBit_blind (b : Bucket) (bit : Bool) (upd : Bucket → Bucket) (s : State) :
    addBit b bit upd (F s) = (addBit b bit upd s).map F := by
  simp only [addBit, hF.cfg, hF.inIdx, hF.raise, hF.resetInput, hF.setProducer]
  refine bind_eq_map _ _ _ _ fun r => ?_
  cases r <;> rfl

theorem syncDetect_blind (b : Bucket) (h l : Half) (s : State) :
    syncDetect b h l (F s) = (syncDetect b h l s).map F := by
  simp only [syncDetect, hF.cfg, hF.arm, hF.setProducer]
  split
  · exact bind_eq_map _ _ _ _ fun _ => rfl
  · split
    · exact bind_eq_map _ _ _ _ fun _ => rfl
    · split <;> rfl

theorem lockOn_blind (st : BucketState) (v : Half) (b : Bucket) (h l : Half) (s : State) :
    lockOn st v b h l (F s) = (lockOn st v b h l s).map F := by
  simp only [lockOn, hF.cfg, hF.arm, hF.setProducer]
  exact bind_eq_map _ _ _ _ fun _ => rfl

theorem classify_blind (b : Bucket) (h l : Half) (s : State) :
    classify b h l (F s) = (classify b h l s).map F := by
  simp only [classify, routerHandoff, hF.cfg, hF.hook, hF.resetInput, lockOn_blind hF]
  split
  · rfl
  · split
    · rfl
    · split <;> rfl

theorem syncStep_blind (b : Bucket) (h l : Half) (s : State) :
    syncStep b h l (F s) = (syncStep b h l s).map F := by
  simp only [syncStep, hF.setProducer, hF.resetInput, classify_blind hF, syncDetect_blind hF]
  split
  · rfl
  · split <;> rfl

theorem itCompare_blind (b : Bucket) (h l : Half) (s : State) :
    itCompare b h l (F s) = (itCompare b h l s).map F := by
  simp only [itCompare, addOne, addZero, addBit_blind hF]
  split
  · rfl
  · split <;> rfl

theorem enterItv3_blind (b : Bucket) (s : State) :
    enterItv3 b (F s) = (enterItv3 b s).map F := by
  simp only [enterItv3, hF.cfg, hF.arm, hF.setProducer]
  exact bind_eq_map _ _ _ _ fun _ => rfl

theorem itStep_blind (b : Bucket) (h l : Half) (s : State) :
    itStep b h l (F s) = (itStep b h l s).map F := by
  simp only [itStep, hF.setProducer, itCompare_blind hF, enterItv3_blind hF]
  split
  · split <;> rfl
  · rfl

theorem itv3Step_blind (b : Bucket) (h l : Half) (s : State) :
    itv3Step b h l (F s) = (itv3Step b h l s).map F := by
  simp only [itv3Step, hF.setProducer, addBit_blind hF, enterItv3_blind hF]
  split
  · split <;> rfl
  · rfl

theorem collectStep_blind (b : Bucket) (h l : Half) (s : State) :
    collectStep b h l (F s) = (collectStep b h l s).map F := by
  simp only [collectStep, addOne, addZero, addBit_blind hF, hF.inIdx, hF.raise, hF.resetInput]
  split
  · rfl
  · split <;> rfl

theorem tcmStep_blind (b : Bucket) (l : Half) (s : State) :
    tcmStep b l (F s) = (tcmStep b l s).map F := by
  simp only [tcmStep, addBit_blind hF]
  split
  · rfl
  · split <;> rfl

theorem revoltStep_blind (b : Bucket) (h l : Half) (s : State) :
    revoltStep b h l (F s) = (revoltStep b h l s).map F := by
  simp only [revoltStep, addOne, addZero, addBit_blind hF]
  split <;> rfl

theorem dispatch_blind (b : Bucket) (h l : Half) (s : State) :
    dispatch b h l (F s) = (dispatch b h l s).map F := by
  unfold dispatch
  cases b.state with
  | reset => exact syncDetect_blind hF b h l s
  | sync => exact syncStep_blind hF b h l s
  | collect => exact collectStep_blind hF b h l s
  | revolt => exact revoltStep_blind hF b h l s
  | it => exact itStep_blind hF b h l s
  | tcm97001 => exact tcmStep_blind hF b l s
  | itv3 => exact itv3Step_blind hF b h l s
  | init => rfl
  | hms => rfl
  | esa => rfl
end

/-! ### The overlay -/

/-- Older records before the traces, another `refused` bit, and a report register that differs only in the
flags no rule reads (R14, R54, R277). -/
structure Overlay where
  sink : List Byte
  calls : List Call
  notices : List Notice
  refused : Bool → Bool
  report : Byte → Byte
  flags : ∀ v, report v &&& 0x67 = v &&& 0x67

/-- The state under an overlay. -/
def Overlay.on (o : Overlay) (s : State) : State :=
  { s with
    sink := o.sink ++ s.sink, calls := o.calls ++ s.calls, notices := o.notices ++ s.notices
    refused := o.refused s.refused, txReport := o.report s.txReport }

/-- Registers that agree but for bits 3, 4 and 7 have the same flag at each of the other bits. -/
theorem getLsbD_of_and_eq {v w : Byte} (h : v &&& 0x67 = w &&& 0x67) {k : Nat}
    (hk : (0x67#8).getLsbD k = true) : v.getLsbD k = w.getLsbD k := by
  have hbit := congrArg (fun x : Byte => x.getLsbD k) h
  have hk' : (0x67 : Byte).getLsbD k = true := hk
  simpa only [BitVec.getLsbD_and, hk', Bool.and_true] using hbit

section
variable (o : Overlay)

theorem Overlay.reportFlag_on {k : Nat} (hk : (0x67#8).getLsbD k = true) (s : State) :
    reportFlag (o.on s).txReport k = reportFlag s.txReport k :=
  getLsbD_of_and_eq (o.flags _) hk

theorem Overlay.raise_on (n : Notice) (s : State) : raise n (o.on s) = o.on (raise n s) := by
  simp [raise, Overlay.on]

theorem Overlay.emit_on (bytes : List Byte) (s : State) :
    emit bytes (o.on s) = o.on (emit bytes s) := by
  simp [emit, Overlay.on]

theorem Overlay.hook_on (c : Call) (s : State) : hook c (o.on s) = o.on (hook c s) := by
  simp [hook, Overlay.on]

theorem Overlay.edgeBlind : EdgeBlind o.on where
  cfg _ := rfl
  inIdx _ := rfl
  setProducer _ _ := rfl
  resetInput _ := rfl
  arm _ _ := rfl
  raise := o.raise_on
  hook := o.hook_on

/-! ### The edges under an overlay -/

/-- The overlay of what the Manchester rule made of an edge. -/
def Overlay.onEdge : EdgeResult → EdgeResult
  | .consumed s => .consumed (o.on s)
  | .fallthrough s => .fallthrough (o.on s)

theorem Overlay.manchesterEdge_on (b : Bucket) (level : Bool) (c : Half) (s : State) :
    manchesterEdge b level c (o.on s) = (manchesterEdge b level c s).map o.onEdge := by
  have hreset : resetInput (raise (.pulseTooLong s.inIdx) (o.on s)) =
      o.on (resetInput (raise (.pulseTooLong s.inIdx) s)) := by
    rw [o.edgeBlind.raise, o.edgeBlind.resetInput]
  simp only [manchesterEdge, o.edgeBlind.inIdx, hreset, addBit_blind o.edgeBlind]
  split
  · rfl
  · split
    · rfl
    · exact bind_map _ _ _ _ _ fun _ => rfl

theorem Overlay.manchesterFirst_on (level : Bool) (c : Half) (s : State) :
    manchesterFirst level c (o.on s) = (manchesterFirst level c s).map o.onEdge := by
  refine bind_eq_map (producer s) _ _ _ fun b => ?_
  split
  · exact o.manchesterEdge_on b level c s
  · rfl

theorem Overlay.fallHandler_on (s : State) :
    fallHandler (o.on s) = (fallHandler s).map o.on := by
  unfold fallHandler
  dsimp only
  rw [o.manchesterFirst_on]
  refine bind_map _ _ _ _ _ fun r => ?_
  cases r <;> rfl

theorem Overlay.riseGeneric_on (c : Half) (s : State) :
    riseGeneric c (o.on s) = (riseGeneric c s).map o.on := by
  unfold riseGeneric
  dsimp only
  change (if revoltPreamble s.hightime (lowTimeOf s.cfg c s.hightime) then _ else _) = _
  split
  · rfl
  · exact bind_eq_map _ _ _ _ fun b => dispatch_blind o.edgeBlind b _ _
      { s with lowtime := lowTimeOf s.cfg c s.hightime, tcnt := 0 }

theorem Overlay.riseHandler_on (s : State) :
    riseHandler (o.on s) = (riseHandler s).map o.on := by
  unfold riseHandler
  dsimp only
  rw [o.manchesterFirst_on]
  refine bind_map _ _ _ _ _ fun r => ?_
  cases r with
  | consumed u => rfl
  | fallthrough u => exact o.riseGeneric_on _ u

/-! ### The silence handler and the timer under an overlay -/

theorem Overlay.overflowLine_on (s : State) : overflowLine (o.on s) = o.on (overflowLine s) := by
  unfold overflowLine
  rw [o.reportFlag_on (by decide), o.emit_on]
  split <;> rfl

theorem Overlay.silenceHandler_on (s : State) :
    silenceHandler (o.on s) = (silenceHandler s).map o.on := by
  refine bind_eq_map (producer s) _ _ _ fun b => ?_
  have hreset (n : Notice) : resetInput (raise n (o.on { s with ocie := false })) =
      o.on (resetInput (raise n { s with ocie := false })) := by
    rw [o.edgeBlind.raise, o.edgeBlind.resetInput]
  split
  · exact congrArg Except.ok (hreset _)
  · change (if ringFull s then _ else _) = Except.map o.on (if ringFull s then _ else _)
    split
    · exact congrArg Except.ok ((congrArg overflowLine (hreset _)).trans (o.overflowLine_on _))
    · rfl

theorem Overlay.tickBy_on (n : Half) (s : State) :
    tickBy n (o.on s) = (tickBy n s).map o.on := by
  unfold tickBy
  dsimp only
  change (if s.ocie ∧ 0 < (s.ocr - s.tcnt).toNat ∧ (s.ocr - s.tcnt).toNat ≤ n.toNat then
    silenceHandler (o.on { s with tcnt := s.ocr }) >>= _ else _) = _
  split
  · rw [o.silenceHandler_on]
    exact bind_map _ _ _ _ _ fun _ => rfl
  · rfl

/-! ### Re-entry of receive and the poll under an overlay -/

theorem Overlay.reenterReceive_on (s : State) :
    reenterReceive (o.on s) = (reenterReceive s).map o.on := by
  refine bind_eq_map (producer s) _ _ _ fun b => ?_
  change Except.ok (clearRepeatFilter (resetInput (if inProgress b then
    raise (.cancelled s.inIdx) (o.on s) else o.on s))) = _
  rw [o.raise_on]
  split <;> rfl

theorem Overlay.repeatFlag_on (dt : Datatype) (s : State) :
    repeatFlag dt (o.on s) = repeatFlag dt s := by
  have hfilter : repeatOfFilter (o.on s) = repeatOfFilter s := by
    unfold repeatOfFilter
    rw [o.reportFlag_on (by decide)]
    rfl
  unfold repeatFlag
  rw [hfilter, o.reportFlag_on (by decide)]
  rfl

theorem Overlay.decidePackage_on (dt : Datatype) (rep : Bool) (s : State) :
    decidePackage dt rep (o.on s) = o.on (decidePackage dt rep s) := by
  unfold decidePackage
  split
  · change (if rep && !s.isNotRep then _ else _) = _
    split <;> rfl
  · rfl

theorem Overlay.noteDuplicate_on (dt : Datatype) (s : State) :
    noteDuplicate dt (o.on s) = o.on (noteDuplicate dt s) := by
  unfold noteDuplicate
  rw [o.raise_on]
  change (if s.packageOK then _ else _) = _
  split <;> rfl

theorem Overlay.dedup_on (dt : Datatype) (s : State) :
    dedup dt (o.on s) = (dedup dt s).map o.on := by
  unfold dedup
  rw [o.repeatFlag_on]
  refine bind_eq_map _ _ _ _ fun rep => ?_
  change Except.ok (noteDuplicate dt (decidePackage dt rep (o.on (replaceFilter s)))) = _
  rw [o.decidePackage_on, o.noteDuplicate_on]
  rfl

theorem Overlay.emitFrame_on (dt : Datatype) (s : State) :
    emitFrame dt (o.on s) = (emitFrame dt s).map o.on := by
  have hline : frameLine dt (o.on s) = frameLine dt s := by
    have hrssi : rssiPair (o.on s) = rssiPair s := by
      unfold rssiPair
      rw [o.reportFlag_on (by decide)]
      rfl
    unfold frameLine
    rw [hrssi]
    rfl
  unfold emitFrame
  rw [o.reportFlag_on (by decide), hline]
  change (if s.packageOK && _ then _ else _) = _
  split
  · exact bind_eq_map _ _ _ _ fun line => congrArg Except.ok (o.emit_on line s)
  · rfl

theorem Overlay.deliver_on (dt : Datatype) (s : State) :
    deliver dt (o.on s) = (deliver dt s).map o.on := by
  have hhook : callFhtHook dt (o.on s) = (callFhtHook dt s).map o.on := by
    unfold callFhtHook
    split
    · exact bind_eq_map _ _ _ _ fun payload => congrArg Except.ok (o.hook_on _ s)
    · rfl
  unfold deliver
  rw [hhook]
  refine bind_map _ _ _ _ _ fun u => ?_
  rw [o.dedup_on]
  exact bind_map _ _ _ _ _ fun v => o.emitFrame_on dt v

theorem Overlay.pollHandler_on (s : State) :
    pollHandler (o.on s) = (pollHandler s).map o.on := by
  unfold pollHandler
  change (if s.nrUsed = 0 then _ else _) = _
  split
  · rfl
  · refine bind_eq_map (consumer s) _ _ _ fun b => ?_
    refine bind_eq_map (runAnalyzers s.cfg s.hightime b analyzerOrder (scratchOf s)) _ _ _
      fun r => ?_
    cases hv : r.verdict with
    | none => exact congrArg (fun u => Except.ok (release u)) (o.raise_on _ (setScratch r s))
    | some dt =>
      dsimp only
      rw [show setScratch r (o.on s) = o.on (setScratch r s) from rfl, o.deliver_on]
      exact bind_map _ _ _ _ _ fun _ => rfl

/-! ### Every event under an overlay -/

/-- An event other than a reset does the same under an overlay; a write of the report register replaces
it, so the overlay must leave that one alone (R14, R54, R277). -/
theorem Overlay.eventHandler_on {i : Instr} (hreset : i ≠ .hwReset)
    (hreport : (∀ imm, i ≠ .configure imm) ∨ o.report = id) (s : State) :
    eventHandler i (o.on s) = (eventHandler i s).map o.on := by
  cases i with
  | edgeFall => exact o.fallHandler_on s
  | edgeRise => exact o.riseHandler_on s
  | silenceTimeout =>
    change (if s.ocie then silenceHandler (o.on s) else .ok (o.on s)) =
      Except.map o.on (if s.ocie then silenceHandler s else .ok s)
    rw [o.silenceHandler_on]
    split <;> rfl
  | taskPoll => exact o.pollHandler_on s
  | configure imm =>
    have hid : o.report = id := hreport.resolve_left fun h => h imm rfl
    have hwritten : { o.on s with txReport := operandByte imm } =
        o.on { s with txReport := operandByte imm } := by
      simp [Overlay.on, hid]
    change reenterReceive { o.on s with txReport := operandByte imm } = _
    rw [hwritten]
    exact o.reenterReceive_on _
  | rxReset => exact o.reenterReceive_on s
  | tickUs n => exact o.tickBy_on n s
  | ticksAdv imm => rfl
  | setRssi imm => rfl
  | hwReset => exact absurd rfl hreset

end

/-- A mask distributes over the difference of two registers. -/
theorem and_xor_distrib_right (v w m : Byte) : (v ^^^ w) &&& m = (v &&& m) ^^^ (w &&& m) := by
  ext k hk
  simp only [BitVec.getElem_and, BitVec.getElem_xor, Bool.and_xor_distrib_right]

/-- Settles O13: a state is the one with empty traces under the overlay of its own traces; any other
traces are another overlay of it, under which the event appends the same records. -/
theorem tracesAreAppendOnlyAndNeverRead : Obligations.TracesAreAppendOnlyAndNeverRead := by
  intro i s t h
  by_cases hreset : i = .hwReset
  · subst hreset
    cases h
    exact ⟨[], [], [], fun x y z r => by
      simp only [if_true, List.append_nil]
      rfl⟩
  · let bare : State := { s with sink := [], calls := [], notices := [], refused := false }
    let traced (x : List Byte) (y : List Call) (z : List Notice) (r : Bool) : Overlay :=
      ⟨x, y, z, fun _ => r, id, fun _ => rfl⟩
    have hon (x : List Byte) (y : List Call) (z : List Notice) (r : Bool) :
        (traced x y z r).on bare =
          { s with sink := x, calls := y, notices := z, refused := r } := by
      simp [Overlay.on, traced, bare]
    have hsame (x : List Byte) (y : List Call) (z : List Notice) (r : Bool) :
        eventHandler i { s with sink := x, calls := y, notices := z, refused := r } =
          (eventHandler i bare).map (traced x y z r).on := by
      rw [← hon]
      exact (traced x y z r).eventHandler_on hreset (.inr rfl) bare
    have hown := (hsame s.sink s.calls s.notices s.refused).symm.trans (exec_eq_next.1 h)
    cases hbare : eventHandler i bare with
    | error e => rw [hbare] at hown; cases hown
    | ok u =>
      rw [hbare] at hown
      cases hown
      refine ⟨u.sink, u.calls, u.notices, fun x y z r => ?_⟩
      rw [if_neg hreset, exec_eq_next, hsame, hbare]
      rfl

/-- Settles O56: the other register is an overlay that exchanges only flags no rule reads. -/
theorem debugFlagsHaveNoEffect : Obligations.DebugFlagsHaveNoEffect := by
  intro i s t v hconfigure hflags h
  by_cases hreset : i = .hwReset
  · subst hreset
    cases h
    rfl
  · have hmask : (v ^^^ s.txReport) &&& 0x67 = 0#8 := by
      rw [and_xor_distrib_right, hflags, BitVec.xor_self]
    let o : Overlay := ⟨[], [], [], id, (· ^^^ (v ^^^ s.txReport)), fun w => by
      rw [and_xor_distrib_right, hmask, BitVec.xor_zero]⟩
    have hvalue : s.txReport ^^^ (v ^^^ s.txReport) = v := by
      rw [BitVec.xor_comm, BitVec.xor_assoc, BitVec.xor_self, BitVec.xor_zero]
    have hon (u : State) (hu : u.txReport = s.txReport) : o.on u = { u with txReport := v } := by
      simp only [Overlay.on, o, hu, hvalue, List.nil_append, id]
    have hkept : t.txReport = s.txReport := by
      cases exec_outcome h with
      | edge _ hframe => rw [hframe.rest]
      | polled hpoll =>
        rcases hpoll.consumer_frame with ⟨-, rfl⟩ | ⟨-, hrest⟩
        · rfl
        · rw [hrest]
      | configured imm => exact absurd rfl (hconfigure imm)
      | reset => exact absurd rfl hreset
      | _ => rfl
    rw [if_neg hreset, exec_eq_next, ← hon s rfl, ← hon t hkept,
      o.eventHandler_on hreset (.inl hconfigure), exec_eq_next.1 h]
    rfl

end Sys2Proof.Machine

/-! ## PROOF. The invariant of the core: it holds at power-on, every step keeps it, and from it every
step completes (R71, R136 to R138, R318, R323, R354). -/

namespace Sys2Proof.Machine

/-! ### Power-on -/

theorem truncPulse_idem (c : Config) (v : Half) : truncPulse c (truncPulse c v) = truncPulse c v := by
  cases h : c.pulseW with
  | w8 => simp only [truncPulse, h, BitVec.and_assoc, BitVec.and_self]
  | w16 => simp only [truncPulse, h]

theorem ringOk_powerOn {c : Config} (hlegal : legalConfig c) : RingOk (State.powerOn c) := by
  obtain ⟨h2, h255, h13, -⟩ := hlegal
  refine ⟨List.length_replicate, show 0 < c.nBuckets by omega, show 0 + 1 ≤ c.nBuckets by omega,
    (Nat.zero_mod _).symm, fun b hb => ?_, fun k hk => absurd hk (Nat.not_lt_zero k),
    fun k _ hk => ?_⟩
  · rw [List.eq_of_mem_replicate hb]
    exact bucketOk_cleared c (by omega)
  · exact (List.getElem?_replicate).trans (if_pos (Nat.mod_lt _ (by omega)))

/-- Every bucket of the ring is in RESET at power-on, and the compare is off (R340, R354). -/
theorem timerOk_powerOn (c : Config) : TimerOk (State.powerOn c) := by
  have hreset (b : Bucket) (hb : isProducer (State.powerOn c) b) : b.state = .reset := by
    have hmem : b ∈ List.replicate c.nBuckets Bucket.cleared := List.mem_of_getElem? hb
    rw [List.eq_of_mem_replicate hmem]
    rfl
  refine ⟨fun b hb => ?_, fun b hb hne => absurd (hreset b hb) hne⟩
  simp [hreset b hb, State.powerOn]

theorem inv_powerOn {c : Config} (hlegal : legalConfig c) : Inv (State.powerOn c) where
  legal := hlegal
  ring := ringOk_powerOn hlegal
  timer := timerOk_powerOn c
  capture := by
    have hzero : truncPulse c 0 = 0 := by cases h : c.pulseW <;> simp [truncPulse, h]
    exact ⟨hzero, hzero⟩
  scratch := ⟨Memory.wf_nil _, Memory.wf_nil _, Nat.zero_le _, Nat.zero_le _⟩

/-- Settles O10. -/
theorem powerOnMeetsTheInvariant : Obligations.PowerOnMeetsTheInvariant :=
  ⟨fun _ hlegal => inv_powerOn hlegal, inv_powerOn (by decide)⟩

/-! ### What the invariant says of the ring -/

theorem RingOk.indices {s : State} (h : RingOk s) (hlegal : s.configured) : RingIndices s :=
  ⟨hlegal.1, hlegal.2.1, h.outRange, h.usedRange, h.inFollows⟩

/-- A sound machine has a producer bucket, sound and armed as its state asks (R136, R323). -/
theorem Inv.exists_producer {s : State} (h : Inv s) :
    ∃ b, isProducer s b ∧ BucketArmed s.cfg b s.ocie s.ocr := by
  have hlt : s.inIdx.toNat < s.buckets.length :=
    h.ring.size ▸ (h.ring.indices h.legal).in_lt
  have hb : isProducer s s.buckets[s.inIdx.toNat] := List.getElem?_eq_getElem hlt
  exact ⟨_, hb, h.ring.bucketsOk _ (List.getElem_mem hlt), h.timer.armed _ hb,
    h.timer.interval _ hb⟩

theorem Inv.maxmsg_bounds {s : State} (h : Inv s) : 0 < s.cfg.maxmsg ∧ s.cfg.maxmsg ≤ 255 := by
  obtain ⟨-, -, h13, h255, -⟩ := h.legal
  exact ⟨by omega, h255⟩

/-- The fields the invariant does not speak of are free. -/
theorem Inv.of_unmentioned {s t : State} (h : Inv s) (ht : t = { s with
    inputs := t.inputs, index := t.index, tcnt := t.tcnt, datatype := t.datatype
    repTime := t.repTime, isRep := t.isRep, isNotRep := t.isNotRep, packageOK := t.packageOK
    txReport := t.txReport, ticks := t.ticks, rssi := t.rssi, refused := t.refused
    sink := t.sink, calls := t.calls, notices := t.notices }) : Inv t := by
  obtain ⟨hlegal, ⟨h1, h2, h3, h4, h5, h6, h7⟩, ⟨h8, h9⟩, ⟨h10, h11⟩, ⟨h12, h13, h14, h15⟩⟩ := h
  rw [ht]
  exact ⟨hlegal, ⟨h1, h2, h3, h4, h5, h6, h7⟩, ⟨h8, h9⟩, ⟨h10, h11⟩, ⟨h12, h13, h14, h15⟩⟩

/-! ### A replaced producer bucket -/

/-- The ring with its producer bucket replaced by a sound one (R136 to R138). -/
theorem RingOk.of_setProducer {s t : State} {b : Bucket} (h : RingOk s) (hlegal : s.configured)
    (hb : BucketOk s.cfg b) (hbuckets : t.buckets = s.buckets.set s.inIdx.toNat b)
    (hcfg : t.cfg = s.cfg) (hout : t.outIdx = s.outIdx) (hused : t.nrUsed = s.nrUsed)
    (hin : t.inIdx = s.inIdx) : RingOk t := by
  have hindices := h.indices hlegal
  have hindex : ringIndex t = ringIndex s := by funext k; simp only [ringIndex, hout, hcfg]
  have hother {k : Nat} (hk : k < s.cfg.nBuckets) (hne : k ≠ s.nrUsed.toNat) :
      t.buckets[ringIndex s k]? = s.buckets[ringIndex s k]? := by
    rw [hbuckets, getElem?_set_of_ne]
    rw [h.inFollows]
    exact fun he => hne (hindices.ringIndex_inj hk hindices.used_lt he)
  refine ⟨?_, ?_, ?_, ?_, fun c hc => ?_, fun k hk => ?_, fun k hk hkN => ?_⟩
  · rw [hbuckets, List.length_set, hcfg, h.size]
  · rw [hout, hcfg]; exact h.outRange
  · rw [hused, hcfg]; exact h.usedRange
  · rw [hin, hused, hindex]; exact h.inFollows
  · rw [hbuckets] at hc
    rw [hcfg]
    rcases List.mem_or_eq_of_mem_set hc with hc | rfl
    · exact h.bucketsOk c hc
    · exact hb
  · rw [hused] at hk
    rw [hindex, hother (hk.trans hindices.used_lt) hk.ne]
    exact h.committed k hk
  · rw [hused] at hk
    rw [hcfg] at hkN
    rw [hindex, hother hkN hk.ne']
    exact h.free k hk hkN

/-- An update that leaves a sound, rightly armed producer bucket, and of the rest of the machine only what
the invariant does not speak of and the capture registers, keeps the invariant. -/
theorem Inv.of_leavesArmed {s t : State} (h : Inv s) (harmed : LeavesArmed s t)
    (hcfg : t.cfg = s.cfg) (hout : t.outIdx = s.outIdx) (hused : t.nrUsed = s.nrUsed)
    (hin : t.inIdx = s.inIdx) (hcapture : CaptureOk t) (hscratch : ScratchOk t) : Inv t := by
  obtain ⟨b, hbuckets, hb, hocie, hocr⟩ := harmed
  obtain ⟨old, hold, -⟩ := h.exists_producer
  have hproducer (c : Bucket) (hc : isProducer t c) : c = b := by
    have hb' : isProducer (setProducer b s) b := isProducer_setProducer hold
    rw [isProducer, hbuckets, hin] at hc
    exact Option.some.inj (hc.symm.trans hb')
  refine ⟨?_, h.ring.of_setProducer h.legal hb hbuckets hcfg hout hused hin,
    ⟨fun c hc => hproducer c hc ▸ hocie, fun c hc => hproducer c hc ▸ hocr⟩, hcapture, hscratch⟩
  show legalConfig t.cfg
  rw [hcfg]
  exact h.legal

/-- A cleared producer bucket with the compare off is rightly armed (R138, R354). -/
theorem leavesArmed_cleared {s t : State} (h : Inv s)
    (hbuckets : t.buckets = s.buckets.set s.inIdx.toNat Bucket.cleared) (hocie : t.ocie = false) :
    LeavesArmed s t :=
  ⟨_, hbuckets, bucketOk_cleared _ h.maxmsg_bounds.1, by simp [hocie, Bucket.cleared],
    fun hne => absurd rfl hne⟩

/-! ### The edges -/

/-- The capture registers, as an update the demodulator does not see. -/
theorem edgeBlind_capture (x y : Half) :
    EdgeBlind fun s => { s with hightime := x, lowtime := y } where
  cfg _ := rfl
  inIdx _ := rfl
  setProducer _ _ := rfl
  resetInput _ := rfl
  arm _ _ := rfl
  raise _ _ := rfl
  hook _ _ := rfl

/-- A dispatched edge leaves the capture registers alone: it does the same whatever they hold. -/
theorem dispatch_capture {b : Bucket} {h l : Half} {s t : State} (hd : dispatch b h l s = .ok t) :
    t.hightime = s.hightime ∧ t.lowtime = s.lowtime := by
  have hsame := dispatch_blind (edgeBlind_capture s.hightime s.lowtime) b h l s
  rw [hd] at hsame
  have ht : t = { t with hightime := s.hightime, lowtime := s.lowtime } := Except.ok.inj hsame
  rw [ht]
  exact ⟨rfl, rfl⟩

/-- The generic path of a rising edge writes `lowtime` as the capture does, and never `hightime`
(R113). -/
theorem riseGeneric_capture {s t : State} {b : Bucket} (hp : isProducer s b)
    (h : riseGeneric (scale s.cfg s.tcnt) s = .ok t) :
    t.hightime = s.hightime ∧ t.lowtime = (captured s).lowtime := by
  rw [riseGeneric_of_producer hp] at h
  split at h
  · cases h
    exact ⟨rfl, rfl⟩
  · exact dispatch_capture h

/-- A falling edge leaves the producer bucket armed and PULSE_W bits in the capture registers. -/
theorem fallHandler_leaves {s t : State} (hinv : Inv s) (h : fallHandler s = .ok t) :
    LeavesArmed s t ∧ truncPulse s.cfg t.hightime = t.hightime ∧
      truncPulse s.cfg t.lowtime = t.lowtime := by
  obtain ⟨b, hp, harmed⟩ := hinv.exists_producer
  have hhigh := hinv.capture.high
  have hlow := hinv.capture.low
  obtain ⟨r, hr, h⟩ := bind_eq_ok.1 h
  have hrule := manchesterFirst_leaves hinv.maxmsg_bounds hp harmed false (scale s.cfg s.tcnt)
  rw [hr] at hrule
  cases hrule with
  | cons u hleaves hkept =>
    cases h
    rw [hkept.1, hkept.2]
    exact ⟨hleaves, hhigh, hlow⟩
  | pass =>
    cases h
    exact ⟨leavesArmed_refl hp harmed, truncPulse_idem _ _, hlow⟩
  | long =>
    cases h
    exact ⟨leavesArmed_resetInput_raise hinv.maxmsg_bounds _, truncPulse_idem _ _, hlow⟩

/-- A rising edge leaves the producer bucket armed and PULSE_W bits in the capture registers. -/
theorem riseHandler_leaves {s t : State} (hinv : Inv s) (h : riseHandler s = .ok t) :
    LeavesArmed s t ∧ truncPulse s.cfg t.hightime = t.hightime ∧
      truncPulse s.cfg t.lowtime = t.lowtime := by
  obtain ⟨b, hp, harmed⟩ := hinv.exists_producer
  have hc := hinv.maxmsg_bounds
  have hhigh := hinv.capture.high
  have hlow := hinv.capture.low
  obtain ⟨r, hr, h⟩ := bind_eq_ok.1 h
  have hrule := manchesterFirst_leaves hc hp harmed true (scale s.cfg s.tcnt)
  rw [hr] at hrule
  cases hrule with
  | cons u hleaves hkept =>
    cases h
    rw [hkept.1, hkept.2]
    exact ⟨hleaves, hhigh, hlow⟩
  | pass =>
    obtain ⟨hth, htl⟩ := riseGeneric_capture hp h
    rw [hth, htl]
    exact ⟨leavesArmed_riseGeneric hc h hp harmed, hhigh, truncPulse_idem _ _⟩
  | long =>
    have hp' : isProducer (resetInput (raise (.pulseTooLong s.inIdx) s)) Bucket.cleared :=
      isProducer_setProducer hp
    have harmed' : BucketArmed s.cfg Bucket.cleared false s.ocr :=
      ⟨bucketOk_cleared _ hc.1, by simp [Bucket.cleared], fun hne => absurd rfl hne⟩
    obtain ⟨hth, htl⟩ := riseGeneric_capture hp' h
    rw [hth, htl]
    exact ⟨leavesArmed_of_resetInput (s := raise (.pulseTooLong s.inIdx) s)
      (leavesArmed_riseGeneric (s := resetInput (raise (.pulseTooLong s.inIdx) s)) hc h hp' harmed'),
      hhigh, truncPulse_idem _ _⟩

/-- An edge keeps the invariant. -/
theorem Inv.of_edge {s t : State} (hinv : Inv s) (hframe : EdgeFrame s t)
    (hleaves : LeavesArmed s t ∧ truncPulse s.cfg t.hightime = t.hightime ∧
      truncPulse s.cfg t.lowtime = t.lowtime) : Inv t := by
  obtain ⟨harmed, hhigh, hlow⟩ := hleaves
  have hrest := hframe.rest
  have hcfg : t.cfg = s.cfg := by rw [hrest]
  refine hinv.of_leavesArmed harmed hcfg (by rw [hrest]) (by rw [hrest]) (by rw [hrest])
    ⟨hcfg ▸ hhigh, hcfg ▸ hlow⟩ ?_
  rw [hrest]
  exact ⟨hinv.scratch.obufWf, hinv.scratch.robufWf, hinv.scratch.items, hinv.scratch.filterItems⟩

/-! ### Commit and release -/

/-- What the silence handler commits is in a data state and holds 16 bits (R137, R201). -/
theorem committedOk_of_not_falseAlarm {b : Bucket} (h : falseAlarm b = false) : committedOk b := by
  have hboth : BucketState.collect.code ≤ b.state.code ∧ 1 < b.byteIdx.toNat := by
    simpa [falseAlarm] using h
  exact hboth

/-- A commit keeps the invariant: the producer bucket becomes the last committed one, and the next free
bucket, which is cleared, the producer (R133, R136 to R138). -/
theorem Inv.of_commit {s : State} {b : Bucket} (hinv : Inv s) (hp : isProducer s b)
    (hdata : falseAlarm b = false) (hroom : ringFull s = false) : Inv { s with
      ocie := false, inIdx := ringSucc s.cfg s.inIdx, nrUsed := s.nrUsed + 1 } := by
  have hring := hinv.ring
  have hindices := hring.indices hinv.legal
  generalize ht : ({ s with
    ocie := false, inIdx := ringSucc s.cfg s.inIdx, nrUsed := s.nrUsed + 1 } : State) = t
  have hcfg : t.cfg = s.cfg := by rw [← ht]
  have hused : t.nrUsed = s.nrUsed + 1 := by rw [← ht]
  have hbuckets : t.buckets = s.buckets := by rw [← ht]
  have hindex : ringIndex t = ringIndex s := by rw [← ht]; rfl
  have hindices' : RingIndices t :=
    hindices.of_commit hroom hcfg (by rw [← ht]) hused (by rw [← ht])
  have hlt : s.nrUsed.toNat + 1 < s.cfg.nBuckets := by
    have : s.nrUsed.toNat + 1 ≠ s.cfg.nBuckets := by simpa [ringFull] using hroom
    have := hring.usedRange
    omega
  have husedNat : t.nrUsed.toNat = s.nrUsed.toNat + 1 := by
    have := hindices.le_255
    rw [hused]
    bv_omega
  have hcleared (c : Bucket) (hc : isProducer t c) : c = Bucket.cleared := by
    rw [isProducer, hindices'.in_eq, hindex, hbuckets, husedNat,
      hring.free _ (by omega) hlt] at hc
    exact (Option.some.inj hc).symm
  have hocie : t.ocie = false := by rw [← ht]
  refine ⟨?_, ⟨?_, hindices'.out_lt, hindices'.used_lt, hindices'.in_eq, ?_, ?_, ?_⟩,
    ⟨fun c hc => ?_, fun c hc hne => ?_⟩, ?_, ?_⟩
  · show legalConfig t.cfg
    rw [hcfg]
    exact hinv.legal
  · rw [hbuckets, hcfg, hring.size]
  · rw [hbuckets, hcfg]
    exact hring.bucketsOk
  · intro k hk
    rw [hindex, hbuckets]
    by_cases hlast : k = s.nrUsed.toNat
    · rw [hlast, ← hring.inFollows]
      exact ⟨b, hp, committedOk_of_not_falseAlarm hdata⟩
    · exact hring.committed k (by omega)
  · intro k hk hkN
    rw [hindex, hbuckets]
    exact hring.free k (by omega) (hcfg ▸ hkN)
  · rw [hcleared c hc, hocie]
    simp [Bucket.cleared]
  · rw [hcleared c hc] at hne
    exact absurd rfl hne
  · rw [← ht]
    exact ⟨hinv.capture.high, hinv.capture.low⟩
  · rw [← ht]
    exact ⟨hinv.scratch.obufWf, hinv.scratch.robufWf, hinv.scratch.items, hinv.scratch.filterItems⟩

/-- A release keeps the invariant: the committed buckets move up by one place, and the released one, now
cleared, becomes the last free one (R134, R136 to R138). -/
theorem Inv.of_release {s t : State} (hinv : Inv s) (hne : s.nrUsed ≠ 0)
    (hbuckets : t.buckets = s.buckets.set s.outIdx.toNat Bucket.cleared)
    (hcfg : t.cfg = s.cfg) (hout : t.outIdx = ringSucc s.cfg s.outIdx)
    (hused : t.nrUsed = s.nrUsed - 1) (hin : t.inIdx = s.inIdx) (hocie : t.ocie = s.ocie)
    (hocr : t.ocr = s.ocr) (hcapture : CaptureOk t) (hscratch : ScratchOk t) : Inv t := by
  have hring := hinv.ring
  have hindices := hring.indices hinv.legal
  obtain ⟨h2, h255, hout_lt, hused_lt, hin_eq⟩ := id hindices
  have hindices' : RingIndices t := hindices.of_release hne hcfg hout hused hin
  have husedNat : t.nrUsed.toNat + 1 = s.nrUsed.toNat := by rw [hused]; bv_omega
  have hindex (k : Nat) : ringIndex t k = ringIndex s (k + 1) := by
    rw [ringIndex, ringIndex, hcfg, hout, ringSucc_toNat (by omega) (by omega), Nat.mod_add_mod,
      Nat.add_assoc, Nat.add_comm 1 k]
  have hfirst : ringIndex s 0 = s.outIdx.toNat := Nat.mod_eq_of_lt hout_lt
  have hother {k : Nat} (hk : k < s.cfg.nBuckets) (hk0 : k ≠ 0) :
      t.buckets[ringIndex s k]? = s.buckets[ringIndex s k]? := by
    rw [hbuckets, getElem?_set_of_ne]
    rw [← hfirst]
    exact fun he => hk0 (hindices.ringIndex_inj hk (by omega) he)
  have hproducer (c : Bucket) (hc : isProducer t c) : isProducer s c := by
    rwa [isProducer, hin, hin_eq, hother hused_lt (by omega), ← hin_eq] at hc
  refine ⟨?_, ⟨?_, hindices'.out_lt, hindices'.used_lt, hindices'.in_eq, ?_, ?_, ?_⟩,
    ⟨fun c hc => ?_, fun c hc hst => ?_⟩, hcapture, hscratch⟩
  · show legalConfig t.cfg
    rw [hcfg]
    exact hinv.legal
  · rw [hbuckets, List.length_set, hcfg, hring.size]
  · intro c hc
    rw [hbuckets] at hc
    rw [hcfg]
    rcases List.mem_or_eq_of_mem_set hc with hc | rfl
    · exact hring.bucketsOk c hc
    · exact bucketOk_cleared _ hinv.maxmsg_bounds.1
  · intro k hk
    rw [hindex, hother (by omega) (by omega)]
    exact hring.committed (k + 1) (by omega)
  · intro k hk hkN
    rw [hcfg] at hkN
    rw [hindex]
    by_cases hwrap : k + 1 = s.cfg.nBuckets
    · have hback : ringIndex s (k + 1) = s.outIdx.toNat := by
        rw [ringIndex, hwrap, Nat.add_mod_right, Nat.mod_eq_of_lt hout_lt]
      rw [hback, hbuckets]
      exact List.getElem?_set_self (hring.size ▸ hout_lt)
    · rw [hother (by omega) (by omega)]
      exact hring.free (k + 1) (by omega) (by omega)
  · rw [hocie]
    exact hinv.timer.armed c (hproducer c hc)
  · rw [hocr]
    exact hinv.timer.interval c (hproducer c hc) hst

/-- A poll leaves the scratch and the filter within their arrays. -/
theorem PollOutcome.scratchOk {s t : State} (h : PollOutcome s t) (hinv : Inv s) : ScratchOk t := by
  cases h with
  | empty => exact hinv.scratch
  | fail b a hused hb hrun hv =>
    obtain ⟨b', a', hb', hrun', hs⟩ := hinv.exists_analysis hused
    obtain rfl : b = b' := Option.some.inj (hb.symm.trans hb')
    obtain rfl : a = a' := Except.ok.inj (hrun.symm.trans hrun')
    exact ⟨hs.obufWf, hs.robufWf, hs.items, hs.filterItems⟩
  | frame b a dt u hused hb hrun hv hdeliver =>
    obtain ⟨b', a', hb', hrun', hs⟩ := hinv.exists_analysis hused
    obtain rfl : b = b' := Option.some.inj (hb.symm.trans hb')
    obtain rfl : a = a' := Except.ok.inj (hrun.symm.trans hrun')
    obtain ⟨v, hv, hs⟩ := deliver_total (dt := dt) (s := setScratch a s) hinv.legal hs
    obtain rfl : u = v := Except.ok.inj (hdeliver.symm.trans hv)
    exact ⟨hs.obufWf, hs.robufWf, hs.items, hs.filterItems⟩

/-- A poll keeps the invariant. -/
theorem Inv.of_poll {s t : State} (hinv : Inv s) (h : PollOutcome s t) : Inv t := by
  have hscratch := h.scratchOk hinv
  obtain ⟨-, rfl⟩ | ⟨hused, hrest⟩ := h.consumer_frame
  · exact hinv
  · have hcapture : CaptureOk t := by
      rw [hrest]
      exact ⟨hinv.capture.high, hinv.capture.low⟩
    refine hinv.of_release hused ?_ ?_ ?_ ?_ ?_ ?_ ?_ hcapture hscratch <;> rw [hrest]

/-! ### Every event and every step -/

/-- Re-entry of receive keeps the invariant (R290, R291). -/
theorem Inv.of_receiveReentered {s : State} (hinv : Inv s) (b : Bucket) :
    Inv (receiveReentered b s) :=
  hinv.of_leavesArmed (leavesArmed_cleared hinv rfl rfl) rfl rfl rfl rfl
    ⟨hinv.capture.high, hinv.capture.low⟩
    ⟨hinv.scratch.obufWf, Memory.wf_nil _, hinv.scratch.items, Nat.zero_le _⟩

/-- Every event keeps the invariant. -/
theorem Inv.of_exec {i : Instr} {s t : State} (hinv : Inv s) (h : exec i s = .next t) : Inv t := by
  cases exec_outcome h with
  | edge hi hframe =>
    rw [exec_eq_next] at h
    rcases hi with rfl | rfl
    · exact hinv.of_edge hframe (fallHandler_leaves hinv h)
    · exact hinv.of_edge hframe (riseHandler_leaves hinv h)
  | elapsed _ v => exact hinv.of_unmentioned rfl
  | discarded _ b n x v hp =>
    exact hinv.of_leavesArmed (leavesArmed_cleared hinv rfl rfl) rfl rfl rfl rfl
      ⟨hinv.capture.high, hinv.capture.low⟩
      ⟨hinv.scratch.obufWf, hinv.scratch.robufWf, hinv.scratch.items, hinv.scratch.filterItems⟩
  | committed _ b v hp hdata hroom => exact (hinv.of_commit hp hdata hroom).of_unmentioned rfl
  | polled hpoll => exact hinv.of_poll hpoll
  | configured imm b hp =>
    have hwritten : Inv { s with txReport := operandByte imm } := hinv.of_unmentioned rfl
    exact hwritten.of_receiveReentered b
  | reentered b hp => exact hinv.of_receiveReentered b
  | advanced imm => exact hinv.of_unmentioned rfl
  | measured imm => exact hinv.of_unmentioned rfl
  | reset => exact (inv_powerOn hinv.legal).of_unmentioned rfl

/-- Settles O9: the step around an event writes only fields the invariant does not speak of, and every
event keeps it (`Inv.of_exec`). -/
theorem stepKeepsTheInvariant : Obligations.StepKeepsTheInvariant := by
  intro s t hinv h
  obtain ⟨-, ⟨-, rfl⟩ | ⟨w, rest, -, ⟨i, -, hexec⟩ | rfl⟩⟩ := step_cases h
  · exact hinv
  · have htaken : Inv { s with inputs := rest, index := s.index + 1 } := hinv.of_unmentioned rfl
    exact htaken.of_exec hexec
  · exact hinv.of_unmentioned rfl

/-- A rising edge on the generic path completes (R318). -/
theorem riseGeneric_total {s : State} {b : Bucket} (hc : 0 < s.cfg.maxmsg ∧ s.cfg.maxmsg ≤ 255)
    (hp : isProducer s b) : ∃ t, riseGeneric (scale s.cfg s.tcnt) s = .ok t := by
  rw [riseGeneric_of_producer hp]
  split
  · exact ⟨_, rfl⟩
  · exact dispatch_total (s := captured s) hc

/-- An edge completes (R318). -/
theorem edge_total {s : State} {b : Bucket} (hc : 0 < s.cfg.maxmsg ∧ s.cfg.maxmsg ≤ 255)
    (hp : isProducer s b) : (∃ t, fallHandler s = .ok t) ∧ ∃ t, riseHandler s = .ok t := by
  constructor
  · have hrule := manchesterFirst_outcome hp false (scale s.cfg s.tcnt)
    unfold fallHandler
    dsimp only
    generalize manchesterFirst false (scale s.cfg s.tcnt) s = r at hrule
    cases hrule <;> exact ⟨_, rfl⟩
  · have hrule := manchesterFirst_outcome hp true (scale s.cfg s.tcnt)
    unfold riseHandler
    dsimp only
    generalize manchesterFirst true (scale s.cfg s.tcnt) s = r at hrule
    cases hrule with
    | cons t => exact ⟨t, rfl⟩
    | pass => exact riseGeneric_total hc hp
    | long =>
      have hp' : isProducer (resetInput (raise (.pulseTooLong s.inIdx) s)) Bucket.cleared :=
        isProducer_setProducer hp
      exact riseGeneric_total (s := resetInput (raise (.pulseTooLong s.inIdx) s)) hc hp'

/-- From a sound state every event completes (R71, R318). -/
theorem Inv.exec_total {s : State} (hinv : Inv s) (i : Instr) : ∃ t, exec i s = .next t := by
  obtain ⟨b, hp, -⟩ := hinv.exists_producer
  have hedge := edge_total hinv.maxmsg_bounds hp
  have hsilence : ∃ t, silenceHandler s = .ok t := ⟨_, silenceHandler_of_producer hp⟩
  simp only [exec_eq_next]
  cases i with
  | edgeFall => exact hedge.1
  | edgeRise => exact hedge.2
  | silenceTimeout =>
    change ∃ t, (if s.ocie then silenceHandler s else .ok s) = .ok t
    split
    · exact hsilence
    · exact ⟨s, rfl⟩
  | taskPoll =>
    by_cases hused : s.nrUsed = 0
    · exact ⟨s, pollHandler_of_empty hused⟩
    · obtain ⟨t, ht, -⟩ := everyClassifiedFrameBecomesTheFilter s hinv hused
      exact ⟨t, exec_eq_next.1 ht⟩
  | configure imm =>
    exact ⟨_, reenterReceive_of_producer (s := { s with txReport := operandByte imm }) hp⟩
  | rxReset => exact ⟨_, reenterReceive_of_producer hp⟩
  | tickUs n =>
    change ∃ t, tickBy n s = .ok t
    obtain ⟨u, hu⟩ := hsilence
    unfold tickBy
    dsimp only
    split
    · rw [silenceHandler_set_tcnt hu]
      exact ⟨_, rfl⟩
    · exact ⟨_, rfl⟩
  | ticksAdv imm => exact ⟨_, rfl⟩
  | setRssi imm => exact ⟨_, rfl⟩
  | hwReset => exact ⟨_, rfl⟩

/-- Settles O11: a legal machine idles, refuses the word in place, or runs an event, which completes
(`Inv.exec_total`). -/
theorem soundStateAlwaysSteps : Obligations.SoundStateAlwaysSteps := by
  intro s hinv
  cases hinputs : s.inputs with
  | nil => exact ⟨s, step_of_no_inputs hinv.legal hinputs⟩
  | cons w rest =>
    cases hd : decode w with
    | ok i =>
      have htaken : Inv { s with inputs := rest, index := s.index + 1 } := hinv.of_unmentioned rfl
      rw [step_of_decode_ok hinv.legal hinputs hd]
      exact htaken.exec_total i
    | error e => exact ⟨_, step_of_decode_error hinv.legal hinputs hd⟩

end Sys2Proof.Machine

/-! ## PROOF. The analyzers that read the bucket's bits at fixed places (R217, R219 to R222, R229 to R231,
R234). -/

namespace Sys2Proof.Machine

/-! ### Reading a bit stream at a place -/

@[simp] theorem msbBits_length (v : Byte) : (msbBits v).length = 8 := rfl

/-- The bits of a byte, MSB first, have its value (R73, R215). -/
theorem bitsValue_msbBits (v : Byte) : bitsValue (msbBits v) = v.toNat := by decide +revert

/-- The bits of a list from place `k` on, once the list is cut there (R215). -/
theorem getBits_of_split {S pre bits post : List Bool} {k : Nat} (h : S = pre ++ (bits ++ post))
    (hk : pre.length = k) : getBits S k bits.length = bitsValue bits := by
  rw [getBits, h, ← hk, List.drop_left, List.take_left]

theorem getByte_of_split {S pre post : List Bool} {v : Byte} {k : Nat}
    (h : S = pre ++ (msbBits v ++ post)) (hk : pre.length = k) : getByte S k = v := by
  have hvalue : getBits S k 8 = v.toNat := (getBits_of_split h hk).trans (bitsValue_msbBits v)
  rw [getByte, hvalue, BitVec.ofNat_toNat, BitVec.setWidth_eq]

theorem bitAt_of_split {S pre post : List Bool} {bit : Bool} {k : Nat}
    (h : S = pre ++ bit :: post) (hk : pre.length = k) : bitAt S k = bit := by
  simp [bitAt, h, ← hk]

theorem length_flatMap_msbBits (bytes : List Byte) :
    (bytes.flatMap msbBits).length = 8 * bytes.length := by
  induction bytes with
  | nil => rfl
  | cons v bytes ih =>
    rw [List.flatMap_cons, List.length_append, ih, msbBits_length, List.length_cons]
    ring

/-- Bytes laid side by side, MSB first, are read back one by one (R73, R215). -/
theorem map_getByte_flatMap (bytes : List Byte) (post : List Bool) :
    (List.range bytes.length).map (fun i => getByte (bytes.flatMap msbBits ++ post) (8 * i)) =
      bytes := by
  refine List.ext_getElem (by simp) fun i hi hi' => ?_
  rw [List.getElem_map, List.getElem_range]
  have hsplit : bytes.flatMap msbBits ++ post = (bytes.take i).flatMap msbBits ++
      (msbBits bytes[i] ++ ((bytes.drop (i + 1)).flatMap msbBits ++ post)) := by
    conv_lhs => rw [← List.take_append_drop i bytes, List.drop_eq_getElem_cons hi']
    simp only [List.flatMap_append, List.flatMap_cons, List.append_assoc]
  exact getByte_of_split hsplit (by rw [length_flatMap_msbBits, List.length_take]; omega)

/-- Bytes written to an empty array from index 0 on, with 0 beyond them (R213). -/
theorem memFill_nil_of_le {cfg : Config} {bytes : List Byte} (h : bytes.length ≤ cfg.maxmsg) :
    ∃ m, memFill cfg [] 0 bytes = .ok m ∧ ∀ j, Memory.read m j = bytes.getD j 0 := by
  obtain ⟨m, hfill, -, hread⟩ := memFill_of_le (Memory.wf_nil cfg.maxmsg) 0 bytes (by omega)
  refine ⟨m, hfill, fun j => ?_⟩
  rw [hread, Nat.zero_add, Nat.sub_zero]
  by_cases hj : j < bytes.length
  · rw [if_pos ⟨Nat.zero_le j, hj⟩]
  · rw [if_neg fun hlt => hj hlt.2, List.getD_eq_default _ _ (by omega), Memory.read_nil]

/-! ### Sums of bytes -/

/-- The checksum of R225 in numbers. -/
theorem cksum1_eq (s : Byte) (bytes : List Byte) :
    cksum1 s bytes = BitVec.ofNat 8 (s.toNat + (bytes.map BitVec.toNat).sum) := by
  induction bytes generalizing s with
  | nil => simp [cksum1]
  | cons v bytes ih =>
    have hstep : cksum1 s (v :: bytes) = cksum1 (s + v) bytes := rfl
    rw [hstep, ih, List.map_cons, List.sum_cons]
    apply BitVec.eq_of_toNat_eq
    simp only [BitVec.toNat_ofNat, BitVec.toNat_add]
    omega

/-- A running 16-bit sum of bytes in numbers (R222). -/
theorem foldl_add_setWidth_toNat (s : Half) (bytes : List Byte) :
    (bytes.foldl (fun a b => a + b.setWidth 16) s).toNat =
      (s.toNat + (bytes.map BitVec.toNat).sum) % 2 ^ 16 := by
  induction bytes generalizing s with
  | nil =>
    have := s.isLt
    simp only [List.foldl_nil, List.map_nil, List.sum_nil]
    omega
  | cons v bytes ih =>
    have := v.isLt
    rw [List.foldl_cons, ih, List.map_cons, List.sum_cons, BitVec.toNat_add, BitVec.toNat_setWidth]
    omega

/-! ### IT, TCM97001 and Revolt -/

/-- The answer of an analyzer that copies the first `n` bytes of a bucket (R213). -/
theorem copied_frame {cfg : Config} (dt : Datatype) (b : Bucket) {n : Byte}
    (h : n.toNat ≤ cfg.maxmsg) :
    ∃ out, (memSlice cfg b.data n.toNat >>= acceptBytes cfg dt) = .ok ⟨out, some dt⟩ ∧
      out.oby = n ∧ out.nibble = false ∧
      ∀ j, Memory.read out.obuf j = if j < n.toNat then Memory.read b.data j else 0 := by
  obtain ⟨obuf, hcopy, hread⟩ := acceptBytes_memSlice dt b.data h
  exact ⟨_, hcopy, by simp, rfl, hread⟩

theorem analyzeIt_of_it {cfg : Config} {b : Bucket} (sc : Scratch)
    (hstate : b.state = .it ∨ b.state = .itv3) :
    analyzeIt cfg b sc = if (b.byteIdx = 3 ∨ b.byteIdx = 8) ∧ b.bitIdx = 7 then
      memSlice cfg b.data b.byteIdx.toNat >>= acceptBytes cfg .it
    else .ok ⟨clearedScratch, none⟩ := by
  simp only [analyzeIt, if_pos hstate, or_and_right]

theorem analyzeRevolt_of_103_bits {cfg : Config} {b : Bucket} (sc : Scratch)
    (hmax : 12 ≤ cfg.maxmsg) (hstate : b.state = .revolt) (hlen : b.byteIdx = 12 ∧ b.bitIdx = 0) :
    analyzeRevolt cfg b sc =
      if ((List.range 11).map fun i => (Memory.read b.data i).toNat).sum % 256 =
          (Memory.read b.data 11).toNat then
        memSlice cfg b.data 12 >>= acceptBytes cfg .revolt
      else .ok ⟨clearedScratch, none⟩ := by
  have hsum : cksum1 0 (((List.range 12).map (Memory.read b.data)).take 11) =
      Memory.read b.data 11 ↔
      ((List.range 11).map fun i => (Memory.read b.data i).toNat).sum % 256 =
        (Memory.read b.data 11).toNat := by
    rw [cksum1_eq, ← List.map_take, List.take_range, List.map_map, ← BitVec.toNat_inj]
    simp [Function.comp_def]
  rw [analyzeRevolt, if_pos hstate, if_pos hlen, memSlice_of_le _ hmax, ok_bind,
    memRead_of_lt _ hmax, ok_bind, ok_bind]
  simp only [hsum]

/-- Settles O41: each gate and length is a branch of its analyzer, and the accepted bytes are copied
(`copied_frame`). -/
theorem itAndRevoltFramesAreCopiedVerbatim : Obligations.ItAndRevoltFramesAreCopiedVerbatim := by
  intro cfg b sc hlegal
  obtain ⟨-, -, hmin, -⟩ := hlegal
  refine ⟨fun hstate => ?_, fun hit hitv3 => ?_, analyzeTcm_of_ne cfg sc, fun hstate => ?_,
    fun hne => if_neg hne⟩
  · rw [analyzeIt_of_it sc hstate]
    by_cases hlen : (b.byteIdx = 3 ∨ b.byteIdx = 8) ∧ b.bitIdx = 7
    · rw [if_pos hlen, if_pos hlen]
      have hle : b.byteIdx.toNat ≤ 8 := by rcases hlen.1 with h | h <;> rw [h] <;> decide
      exact copied_frame .it b (by omega)
    · rw [if_neg hlen, if_neg hlen]
  · exact if_neg (by simp [hit, hitv3])
  · by_cases hlen : b.byteIdx = 12 ∧ b.bitIdx = 0
    · rw [analyzeRevolt_of_103_bits sc (by omega) hstate hlen]
      simp only [hlen, true_and]
      split
      · exact copied_frame (n := 12) .revolt b (by show 12 ≤ _; omega)
      · rfl
    · rw [if_neg fun h => hlen ⟨h.1, h.2.1⟩, analyzeRevolt, if_pos hstate, if_neg hlen]

/-! ### ESA -/

/-- The cipher before the last byte (R221). -/
theorem esaCipher_cons (salt r : Byte) {rest : List Byte} (h : rest ≠ []) :
    esaCipher salt (r :: rest) = (r ^^^ salt) :: esaCipher (r + 0x24) rest := by
  cases rest with
  | nil => exact absurd rfl h
  | cons v rest => rfl

/-- The cipher byte by byte: the salt of a byte comes from the raw byte before it (R221). -/
theorem esaCipher_getD (salt last : Byte) (raw : List Byte) :
    (∀ i < raw.length, (esaCipher salt (raw ++ [last])).getD i 0 =
      raw.getD i 0 ^^^ if i = 0 then salt else raw.getD (i - 1) 0 + 0x24) ∧
    (esaCipher salt (raw ++ [last])).getD raw.length 0 =
      last ^^^ (if raw = [] then salt else raw.getD (raw.length - 1) 0 + 0x24) ^^^ 0xFF := by
  induction raw generalizing salt with
  | nil => exact ⟨fun i hi => absurd hi (Nat.not_lt_zero i), rfl⟩
  | cons r raw ih =>
    obtain ⟨hinit, hlast⟩ := ih (r + 0x24)
    rw [List.cons_append, esaCipher_cons salt r (by simp)]
    constructor
    · intro i hi
      cases i with
      | zero => rfl
      | succ i =>
        rw [List.getD_cons_succ, hinit i (by simpa using hi), List.getD_cons_succ]
        cases i with
        | zero => rfl
        | succ i => rfl
    · rw [List.length_cons, List.getD_cons_succ, hlast]
      cases raw with
      | nil => rfl
      | cons v raw => rfl

theorem esaDataBytes_add (n : EsaBitLen) : 8 * (esaDataBytes n + 3) = esaBits n := by cases n <;> rfl

/-- An ESA bucket of the right length is deciphered, and its sum decides (R220 to R222). -/
theorem analyzeEsa_of_bytes {cfg : Config} {b : Bucket} (sc : Scratch) {raw : List Byte}
    {last hi lo : Byte} (hesa : esaBits cfg.esaBitLen / 8 ≤ cfg.maxmsg) (hstate : b.state = .esa)
    (hlen : raw.length = esaDataBytes cfg.esaBitLen)
    (hstream : streamOf b = (raw ++ [last, hi, lo]).flatMap msbBits) :
    ∃ obuf, analyzeEsa cfg b sc = .ok ⟨⟨obuf, BitVec.ofNat 8 (raw.length + 1), false⟩,
        if (cfg.esaCrc.toNat + (raw.map BitVec.toNat).sum + last.toNat) % 2 ^ 16 =
          256 * hi.toNat + lo.toNat then some .esa else none⟩ ∧
      ∀ j, Memory.read obuf j = (esaCipher 0x89 (raw ++ [last])).getD j 0 := by
  have hbits := esaDataBytes_add cfg.esaBitLen
  have hcount : b.bitCount = esaBits cfg.esaBitLen := by
    rw [← streamOf_length, hstream, length_flatMap_msbBits, List.length_append, hlen, ← hbits]
    rfl
  have hcut : streamOf b = (raw ++ [last]).flatMap msbBits ++ (msbBits hi ++ msbBits lo) := by
    rw [hstream]
    simp
  have hraw : esaRaw cfg (streamOf b) = raw ++ [last] := by
    have hread := map_getByte_flatMap (raw ++ [last]) (msbBits hi ++ msbBits lo)
    rwa [← hcut, List.length_append, List.length_singleton, hlen] at hread
  have htrailer : (esaTrailer cfg (streamOf b)).toNat = 256 * hi.toNat + lo.toNat := by
    have hplace : ((raw ++ [last]).flatMap msbBits).length =
        8 * esaDataBytes cfg.esaBitLen + 8 := by
      rw [length_flatMap_msbBits, List.length_append, hlen, List.length_singleton]
      ring
    have hget : getBits (streamOf b) (8 * esaDataBytes cfg.esaBitLen + 8) 16 =
        bitsValue (msbBits hi ++ msbBits lo) :=
      getBits_of_split (bits := msbBits hi ++ msbBits lo) (post := [])
        (by rw [hcut, List.append_nil]) hplace
    have hvalue : bitsValue (msbBits hi ++ msbBits lo) = 256 * hi.toNat + lo.toNat := by
      have hhi := bitsValue_msbBits hi
      have hlo := bitsValue_msbBits lo
      simp only [bitsValue, msbBits, List.cons_append, List.nil_append, List.foldl] at hhi hlo ⊢
      omega
    have := hi.isLt
    have := lo.isLt
    rw [esaTrailer, hget, hvalue, BitVec.toNat_ofNat]
    omega
  have hcheck : cfg.esaCrc + sum16 (raw ++ [last]) - esaTrailer cfg (streamOf b) = 0 ↔
      (cfg.esaCrc.toNat + (raw.map BitVec.toNat).sum + last.toNat) % 2 ^ 16 =
        256 * hi.toNat + lo.toNat := by
    have hsum : (sum16 (raw ++ [last])).toNat =
        ((raw.map BitVec.toNat).sum + last.toNat) % 2 ^ 16 := by
      rw [sum16, foldl_add_setWidth_toNat]
      simp
    rw [sub_eq_zero, ← BitVec.toNat_inj, BitVec.toNat_add, hsum, htrailer, Nat.add_mod_mod,
      Nat.add_assoc]
  obtain ⟨obuf, hfill, hread⟩ := memFill_nil_of_le (cfg := cfg)
    (bytes := esaCipher 0x89 (raw ++ [last])) (by rw [esaCipher_length]; simp; omega)
  refine ⟨obuf, ?_, hread⟩
  rw [analyzeEsa, if_pos ⟨hstate, hcount⟩, bitStream_eq (by omega), ok_bind]
  simp only [hraw, hfill, ok_bind, hcheck, hlen]
  split <;> rfl

/-- Settles O42: the answer is `analyzeEsa_of_bytes`, its bytes `esaCipher_getD`; any other bucket
fails the gate. -/
theorem esaFrameIsDecipheredAndChecked : Obligations.EsaFrameIsDecipheredAndChecked := by
  intro cfg b sc hlegal dataBytes
  have hbytes : dataBytes = esaDataBytes cfg.esaBitLen := by
    cases h : cfg.esaBitLen <;> simp only [dataBytes, h, esaDataBytes]
  obtain ⟨-, -, -, hmax, hesa, -⟩ := hlegal
  have hbits := esaDataBytes_add cfg.esaBitLen
  refine ⟨fun raw last hi lo hstate hlen hstream => ?_, fun hgate => ?_⟩
  · have hpos : raw ≠ [] := by
      rintro rfl
      rw [hbytes] at hlen
      cases h : cfg.esaBitLen <;> simp [h, esaDataBytes] at hlen
    obtain ⟨obuf, hanswer, hread⟩ :=
      analyzeEsa_of_bytes sc hesa hstate (hlen.trans hbytes) hstream
    obtain ⟨hinit, hlast⟩ := esaCipher_getD 0x89 last raw
    rw [if_neg hpos] at hlast
    refine ⟨_, hanswer, ?_, rfl, fun i hi => (hread i).trans (hinit i hi), (hread _).trans hlast⟩
    show (BitVec.ofNat 8 (raw.length + 1)).toNat = raw.length + 1
    rw [BitVec.toNat_ofNat]
    omega
  · refine if_neg fun hopen => ?_
    rcases hgate with hstate | hcount
    · exact hstate hopen.1
    · exact hcount (by omega)

/-! ### HMS -/

/-- An HMS group passes: its parity is even and its literal bit 0 (R229). -/
def HmsGroupGood (g : Byte × Bool × Bool) : Prop := g.2 = (oddOnes g.1, false)

theorem hmsStream_cons (g : Byte × Bool × Bool) (groups : List (Byte × Bool × Bool)) :
    hmsStream (g :: groups) = msbBits g.1 ++ ([g.2.1, g.2.2] ++ hmsStream groups) := by
  simp [hmsStream]

theorem hmsStream_length (groups : List (Byte × Bool × Bool)) :
    (hmsStream groups).length = 10 * groups.length := by
  induction groups with
  | nil => rfl
  | cons g groups ih => rw [hmsStream_cons]; simp [ih]; omega

/-- One group of the loop (R229). -/
theorem hmsGroups_cons {cfg : Config} {S pre post : List Bool} {g : Byte × Bool × Bool} {k : Nat}
    (l : List Nat) (obuf : Memory) (x : Byte)
    (hS : S = pre ++ (msbBits g.1 ++ ([g.2.1, g.2.2] ++ post))) (hpre : pre.length = 10 * k) :
    (¬ HmsGroupGood g → hmsGroups cfg S (k :: l) obuf x = .ok (obuf, x, false)) ∧
    (HmsGroupGood g → k < cfg.maxmsg → hmsGroups cfg S (k :: l) obuf x =
      hmsGroups cfg S l (Memory.write obuf k g.1) (x ^^^ g.1)) := by
  obtain ⟨v, p, z⟩ := g
  have hbyte : getByte S (10 * k) = v := getByte_of_split hS hpre
  have hparity : bitAt S (10 * k + 8) = p :=
    bitAt_of_split (pre := pre ++ msbBits v) (post := z :: post) (by rw [hS]; simp) (by simp [hpre])
  have hliteral : bitAt S (10 * k + 9) = z :=
    bitAt_of_split (pre := pre ++ msbBits v ++ [p]) (post := post) (by rw [hS]; simp) (by simp [hpre])
  simp only [hmsGroups, hbyte, hparity, hliteral, parity_eq_oddOnes, HmsGroupGood, Prod.mk.injEq]
  constructor
  · intro hbad
    by_cases hp : p = oddOnes v
    · rw [if_neg (not_not.2 hp), if_pos fun hz => hbad ⟨hp, hz⟩]
    · rw [if_pos hp]
  · rintro ⟨hp, hz⟩ hk
    rw [if_neg (not_not.2 hp), if_neg (not_not.2 hz), memWrite_of_lt _ _ hk, ok_bind]

/-- The loop over the groups from the `k`-th on (R229): it passes exactly when they are all good, and has
then written their bytes and taken their XOR. -/
theorem hmsGroups_of_stream {cfg : Config} {S : List Bool} (post : List Bool)
    (groups : List (Byte × Bool × Bool)) {pre : List Bool} {k : Nat} {obuf : Memory} (x : Byte)
    (hS : S = pre ++ (hmsStream groups ++ post)) (hpre : pre.length = 10 * k)
    (hk : k + groups.length ≤ cfg.maxmsg) (hw : Memory.wf cfg.maxmsg obuf) :
    (¬ (∀ g ∈ groups, HmsGroupGood g) → ∃ o y,
      hmsGroups cfg S (List.range' k groups.length) obuf x = .ok (o, y, false)) ∧
    ((∀ g ∈ groups, HmsGroupGood g) → ∃ o,
      hmsGroups cfg S (List.range' k groups.length) obuf x =
        .ok (o, (groups.map Prod.fst).foldl (· ^^^ ·) x, true) ∧
      ∀ j, Memory.read o j = if k ≤ j ∧ j < k + groups.length then
        (groups.map Prod.fst).getD (j - k) 0 else Memory.read obuf j) := by
  induction groups generalizing pre k obuf x with
  | nil =>
    refine ⟨fun h => absurd (by simp) h, fun _ => ⟨obuf, rfl, fun j => ?_⟩⟩
    rw [if_neg (by simp)]
  | cons g groups ih =>
    rw [hmsStream_cons] at hS
    simp only [List.length_cons] at hk ⊢
    rw [List.range'_succ]
    obtain ⟨hbad, hgood⟩ := hmsGroups_cons (cfg := cfg) (List.range' (k + 1) groups.length) obuf x
      (hS.trans (by simp only [List.append_assoc]; rfl)) hpre
    obtain ⟨ihbad, ihgood⟩ := ih (pre := pre ++ (msbBits g.1 ++ [g.2.1, g.2.2])) (k := k + 1)
      (obuf := Memory.write obuf k g.1) (x ^^^ g.1) (by rw [hS]; simp) (by simp [hpre]; ring)
      (by omega) (Memory.write_wf hw (by omega) _)
    rw [List.forall_mem_cons]
    by_cases hg : HmsGroupGood g
    · rw [hgood hg (by omega)]
      refine ⟨fun h => ihbad fun hall => h ⟨hg, hall⟩, fun hall => ?_⟩
      obtain ⟨o, hloop, hread⟩ := ihgood hall.2
      refine ⟨o, hloop, fun j => ?_⟩
      rw [hread, Memory.read_write hw]
      rcases Nat.lt_trichotomy j k with hj | rfl | hj
      · rw [if_neg (by omega), if_neg (by omega), if_neg (by omega)]
      · rw [if_neg (by omega), if_pos rfl, if_pos (by omega), Nat.sub_self]
        rfl
      · obtain ⟨d, rfl⟩ : ∃ d, j = k + 1 + d := ⟨j - (k + 1), by omega⟩
        rw [if_neg (by omega : ¬ k + 1 + d = k), Nat.add_sub_cancel_left,
          show k + 1 + d - k = d + 1 by omega]
        by_cases hd : d < groups.length
        · rw [if_pos (by omega), if_pos (by omega)]
          rfl
        · rw [if_neg (by omega), if_neg (by omega)]
    · exact ⟨fun _ => ⟨obuf, x, hbad hg⟩, fun hall => absurd hall.1 hg⟩

/-- The HMS analyzer on a stream of six groups and a CRC: the loop (`hmsGroups_of_stream`), then the CRC
byte at bit 60 and its parity at 68 (R229). -/
theorem analyzeHms_of_stream {cfg : Config} {b : Bucket} (sc : Scratch)
    {groups : List (Byte × Bool × Bool)} {crc : Byte} {crcParity : Bool} {extra : List Bool}
    (hmin : 6 ≤ cfg.maxmsg) (hcount : b.bitCount ≤ 8 * cfg.maxmsg) (hsix : groups.length = 6)
    (hstream : streamOf b = hmsStream groups ++ msbBits crc ++ [crcParity] ++ extra) :
    ((∀ g ∈ groups, HmsGroupGood g) ∧ crcParity = oddOnes crc ∧ crc = xorAll (groups.map Prod.fst) →
      ∃ out, analyzeHms cfg b sc = .ok ⟨out, some .hms⟩ ∧ out.oby = 6 ∧ out.nibble = false ∧
        (List.range 6).map (Memory.read out.obuf) = groups.map Prod.fst) ∧
    (¬ ((∀ g ∈ groups, HmsGroupGood g) ∧ crcParity = oddOnes crc ∧
      crc = xorAll (groups.map Prod.fst)) → ∃ out, analyzeHms cfg b sc = .ok ⟨out, none⟩) := by
  have hgate : 69 ≤ b.bitCount := by
    rw [← streamOf_length, hstream]
    simp only [List.length_append, hmsStream_length, hsix, msbBits_length, List.length_singleton]
    omega
  have hcrc : getByte (streamOf b) 60 = crc :=
    getByte_of_split (pre := hmsStream groups) (post := crcParity :: extra)
      (by rw [hstream]; simp) (by rw [hmsStream_length, hsix])
  have hparity : bitAt (streamOf b) 68 = crcParity :=
    bitAt_of_split (pre := hmsStream groups ++ msbBits crc) (post := extra)
      (by rw [hstream]; simp) (by rw [List.length_append, hmsStream_length, hsix]; rfl)
  obtain ⟨hbad, hgood⟩ := hmsGroups_of_stream (cfg := cfg) (S := streamOf b)
    (msbBits crc ++ ([crcParity] ++ extra)) groups (pre := []) (k := 0) (obuf := []) 0
    (by rw [hstream]; simp) rfl (by rw [Nat.zero_add, hsix]; exact hmin) (Memory.wf_nil _)
  have hrun (o : Memory) (x : Byte) (passed : Bool)
      (hloop : hmsGroups cfg (streamOf b) (List.range' 0 groups.length) [] 0 = .ok (o, x, passed)) :
      analyzeHms cfg b sc = if passed = true ∧ crcParity = oddOnes crc ∧ x = crc then
        .ok ⟨⟨o, 6, false⟩, some .hms⟩ else .ok ⟨⟨o, 0, false⟩, none⟩ := by
    rw [hsix, ← List.range_eq_range'] at hloop
    simp only [analyzeHms, if_pos hgate, bitStream_eq hcount, ok_bind, hloop, hcrc, hparity,
      parity_eq_oddOnes, Bool.and_eq_true, beq_iff_eq, and_assoc]
  by_cases hall : ∀ g ∈ groups, HmsGroupGood g
  · obtain ⟨o, hloop, hread⟩ := hgood hall
    rw [hrun o _ true hloop]
    constructor
    · rintro ⟨-, hcheck⟩
      rw [if_pos ⟨rfl, hcheck.1, hcheck.2.symm⟩]
      refine ⟨_, rfl, rfl, rfl, List.ext_getElem (by simp [hsix]) fun i hi hi' => ?_⟩
      have hlt : i < groups.length := by simpa using hi'
      rw [List.getElem_map, List.getElem_range, hread, if_pos (by omega), Nat.sub_zero,
        List.getD_eq_getElem _ _ (by simpa using hlt)]
    · intro hnot
      rw [if_neg fun h => hnot ⟨hall, h.2.1, h.2.2.symm⟩]
      exact ⟨_, rfl⟩
  · refine ⟨fun h => absurd h.1 hall, fun _ => ?_⟩
    obtain ⟨o, x, hloop⟩ := hbad hall
    rw [hrun o x false hloop, if_neg (by simp)]
    exact ⟨_, rfl⟩

/-- Settles O46 by `analyzeHms_of_stream`; a shorter bucket fails the gate. -/
theorem hmsFrameIsReadBack : Obligations.HmsFrameIsReadBack := by
  intro cfg b sc hlegal hcount
  have hmin : 6 ≤ cfg.maxmsg := by
    obtain ⟨-, -, hmin, -⟩ := hlegal
    omega
  refine ⟨?_, fun hshort => by rw [analyzeHms, if_neg (by omega)]⟩
  intro groups crc crcParity extra hsix hstream bytes
  rw [ite_prop_iff_and]
  exact analyzeHms_of_stream sc hmin hcount hsix hstream

/-! ### TX3 -/

theorem hiNibble_eq_iff (v : Byte) (n : BitVec 4) : hiNibble v = n ↔ v.toNat / 16 = n.toNat := by
  rw [← BitVec.toNat_inj, hiNibble_toNat]

/-- The first byte of a TX3 frame has its bit 7 forced to 1 (R230). -/
theorem tx3_first_byte (v : Byte) (h : v.getLsbD 7 = true) :
    0x80 ||| BitVec.ofNat 8 (bitsValue ((msbBits v).drop 1)) = v := by decide +revert

/-- The fifth byte of a TX3 frame is seven bits (R230). -/
theorem tx3_last_byte (v : Byte) (h : v.getLsbD 0 = false) :
    BitVec.ofNat 8 (bitsValue ((msbBits v).take 7)) <<< 1 = v := by decide +revert

/-- The five bytes of a TX3 stream are read back (R230). -/
theorem tx3Bytes_of_stream {v0 v1 v2 v3 v4 : Byte} (h0 : v0.getLsbD 7 = true)
    (h4 : v4.getLsbD 0 = false) :
    tx3Bytes ((msbBits v0).drop 1 ++ msbBits v1 ++ msbBits v2 ++ msbBits v3 ++
      (msbBits v4).take 7) = [v0, v1, v2, v3, v4] := by
  generalize hS : (msbBits v0).drop 1 ++ msbBits v1 ++ msbBits v2 ++ msbBits v3 ++
    (msbBits v4).take 7 = S
  have hfirst : getBits S 0 7 = bitsValue ((msbBits v0).drop 1) :=
    getBits_of_split (S := S) (bits := (msbBits v0).drop 1) (pre := []) (post := msbBits v1 ++ msbBits v2 ++ msbBits v3 ++
      (msbBits v4).take 7) (by rw [← hS]; simp only [List.append_assoc, List.nil_append]) rfl
  have hlast : getBits S 31 7 = bitsValue ((msbBits v4).take 7) :=
    getBits_of_split (S := S) (bits := (msbBits v4).take 7) (post := [])
      (pre := (msbBits v0).drop 1 ++ msbBits v1 ++ msbBits v2 ++ msbBits v3) (by rw [← hS]; simp only [List.append_nil]) rfl
  have h1 : getByte S 7 = v1 :=
    getByte_of_split (pre := (msbBits v0).drop 1)
      (post := msbBits v2 ++ msbBits v3 ++ (msbBits v4).take 7)
      (by rw [← hS]; simp only [List.append_assoc]) rfl
  have h2 : getByte S 15 = v2 :=
    getByte_of_split (pre := (msbBits v0).drop 1 ++ msbBits v1)
      (post := msbBits v3 ++ (msbBits v4).take 7)
      (by rw [← hS]; simp only [List.append_assoc]) rfl
  have h3 : getByte S 23 = v3 :=
    getByte_of_split (pre := (msbBits v0).drop 1 ++ msbBits v1 ++ msbBits v2)
      (post := (msbBits v4).take 7) (by rw [← hS]; simp only [List.append_assoc]) rfl
  rw [tx3Bytes, hfirst, hlast, h1, h2, h3, tx3_first_byte v0 h0, tx3_last_byte v4 h4]

/-- A running sum of nibbles in numbers (R231, R233). -/
theorem nibbleSum_toNat (s : BitVec 4) (q : List (BitVec 4)) :
    (nibbleSum s q).toNat = (s.toNat + (q.map BitVec.toNat).sum) % 16 := by
  induction q generalizing s with
  | nil => exact (Nat.mod_eq_of_lt s.isLt).symm
  | cons n q ih =>
    have hstep : nibbleSum s (n :: q) = nibbleSum (s + n) q := rfl
    rw [hstep, ih, BitVec.toNat_add, List.map_cons, List.sum_cons, Nat.mod_add_mod, Nat.add_assoc]

/-- The nibble sum of a TX3 frame in numbers (R231). -/
theorem tx3Check_iff (v0 v1 v2 v3 v4 : Byte) : tx3Check [v0, v1, v2, v3, v4] = true ↔
    (v0.toNat / 16 + v0.toNat % 16 + v1.toNat / 16 + v1.toNat % 16 + v2.toNat / 16 + v2.toNat % 16 +
      v3.toNat / 16 + v3.toNat % 16 + v4.toNat / 16) % 16 = v4.toNat % 16 := by
  have hfirst : (nibblesHiLo [v0, v1, v2, v3, v4]).take 9 = [hiNibble v0, loNibble v0, hiNibble v1,
      loNibble v1, hiNibble v2, loNibble v2, hiNibble v3, loNibble v3, hiNibble v4] := rfl
  have hlast : (nibblesHiLo [v0, v1, v2, v3, v4]).getD 9 0 = loNibble v4 := rfl
  have hzero : (0 : BitVec 4).toNat = 0 := rfl
  rw [tx3Check, beq_iff_eq, hfirst, hlast, ← BitVec.toNat_inj, nibbleSum_toNat, loNibble_toNat v4]
  simp only [List.map_cons, List.map_nil, List.sum_cons, List.sum_nil, hiNibble_toNat,
    loNibble_toNat, hzero, Nat.zero_add, Nat.add_zero, Nat.add_assoc]

/-- The TX3 analyzer on a bucket of 38 bits whose five bytes are known (R230): a wrong first nibble
fails, and otherwise the nibble sum decides. -/
theorem analyzeTx3_of_bytes {cfg : Config} {b : Bucket} (sc : Scratch) {v0 v1 v2 v3 v4 : Byte}
    (hmin : 5 ≤ cfg.maxmsg) (hlen : b.byteIdx = 4 ∧ b.bitIdx = 1)
    (hbytes : tx3Bytes (streamOf b) = [v0, v1, v2, v3, v4]) :
    (hiNibble v0 ≠ 0xA → ∃ obuf, analyzeTx3 cfg b sc = .ok ⟨⟨obuf, 0, false⟩, none⟩) ∧
    (hiNibble v0 = 0xA → ∃ obuf,
      (∀ j, Memory.read obuf j = [v0, v1, v2, v3, v4].getD j 0) ∧
      (tx3Check [v0, v1, v2, v3, v4] = true →
        analyzeTx3 cfg b sc = .ok ⟨⟨obuf, 5, false⟩, some .tx3⟩) ∧
      (tx3Check [v0, v1, v2, v3, v4] = false →
        analyzeTx3 cfg b sc = .ok ⟨⟨obuf, 0, false⟩, none⟩)) := by
  have hcount : b.bitCount ≤ 8 * cfg.maxmsg := by
    have : b.bitCount = 38 := by simp [Bucket.bitCount, hlen]
    omega
  constructor
  · intro hne
    obtain ⟨obuf, hfill, -⟩ := memFill_nil_of_le (cfg := cfg)
      (bytes := [v0, v1, v2, v3, v4].take 1) (by simp; omega)
    refine ⟨obuf, ?_⟩
    simp only [analyzeTx3, if_pos hlen, bitStream_eq hcount, ok_bind, hbytes, List.headD_cons,
      if_pos hne, hfill]
  · intro he
    obtain ⟨obuf, hfill, hread⟩ := memFill_nil_of_le (cfg := cfg)
      (bytes := [v0, v1, v2, v3, v4]) (by simpa using hmin)
    have hrun : analyzeTx3 cfg b sc = if tx3Check [v0, v1, v2, v3, v4] then
        .ok ⟨⟨obuf, 5, false⟩, some .tx3⟩ else .ok ⟨⟨obuf, 0, false⟩, none⟩ := by
      simp only [analyzeTx3, if_pos hlen, bitStream_eq hcount, ok_bind, hbytes, List.headD_cons,
        if_neg (not_not.2 he), hfill]
    exact ⟨obuf, hread, fun h => hrun.trans (if_pos h),
      fun h => hrun.trans (if_neg (ne_true_of_eq_false h))⟩

/-- Settles O47: the five bytes are read back (`tx3Bytes_of_stream`); the first nibble and the sum
(`tx3Check_iff`) decide. -/
theorem tx3FrameIsReadBack : Obligations.Tx3FrameIsReadBack := by
  intro cfg b sc hlegal
  have hmin : 5 ≤ cfg.maxmsg := by
    obtain ⟨-, -, hmin, -⟩ := hlegal
    omega
  refine ⟨?_, fun hlen => by rw [analyzeTx3, if_neg hlen]⟩
  intro v0 v1 v2 v3 v4 h0 h4 hbyte hbit hstream nibble sum
  have hbytes : tx3Bytes (streamOf b) = [v0, v1, v2, v3, v4] :=
    hstream ▸ tx3Bytes_of_stream h0 h4
  have hsum : tx3Check [v0, v1, v2, v3, v4] = true ↔ sum % 16 = nibble v4 1 :=
    tx3Check_iff v0 v1 v2 v3 v4
  have hfirst : hiNibble v0 = 0xA ↔ nibble v0 0 = 0xA := hiNibble_eq_iff v0 0xA
  obtain ⟨hwrong, hright⟩ := analyzeTx3_of_bytes sc hmin ⟨hbyte, hbit⟩ hbytes
  by_cases hA : hiNibble v0 = 0xA
  · obtain ⟨obuf, hread, haccept, hfail⟩ := hright hA
    cases hcheck : tx3Check [v0, v1, v2, v3, v4] with
    | true =>
      refine ⟨⟨obuf, 5, false⟩, rfl, ?_⟩
      rw [if_pos ⟨hfirst.1 hA, hsum.1 hcheck⟩]
      exact ⟨haccept hcheck, rfl, by simp [List.range_succ, hread]⟩
    | false =>
      refine ⟨⟨obuf, 0, false⟩, rfl, ?_⟩
      rw [if_neg fun h => ne_true_of_eq_false hcheck (hsum.2 h.2)]
      exact hfail hcheck
  · obtain ⟨obuf, hfail⟩ := hwrong hA
    refine ⟨⟨obuf, 0, false⟩, rfl, ?_⟩
    rw [if_neg fun h => hA (hfirst.2 h.1)]
    exact hfail

/-! ### Hörmann -/

/-- Four bits in the high nibble of a byte (R234). -/
theorem highNibble_of_bits (x y z p : Bool) : BitVec.ofNat 8 (bitsValue [x, y, z, p]) <<< 4 =
    BitVec.ofNat 8 (128 * x.toNat + 64 * y.toNat + 32 * z.toNat + 16 * p.toNat) := by
  decide +revert

/-- The bytes of a Hörmann frame (R234): four bytes, and the last three bits with the projected one in
the high nibble of the fifth. -/
theorem hoermann_bytes_of_stream {S : List Bool} {v0 v1 v2 v3 : Byte} {x y z p : Bool}
    (hS : S = [v0, v1, v2, v3].flatMap msbBits ++ [x, y, z, p]) :
    (List.range 4).map (fun i => getByte S (8 * i)) ++ [BitVec.ofNat 8 (getBits S 32 4) <<< 4] =
      [v0, v1, v2, v3,
        BitVec.ofNat 8 (128 * x.toNat + 64 * y.toNat + 32 * z.toNat + 16 * p.toNat)] := by
  have hbytes : (List.range 4).map (fun i => getByte S (8 * i)) = [v0, v1, v2, v3] :=
    hS ▸ map_getByte_flatMap [v0, v1, v2, v3] [x, y, z, p]
  have hbits : getBits S 32 4 = bitsValue [x, y, z, p] :=
    getBits_of_split (pre := [v0, v1, v2, v3].flatMap msbBits) (bits := [x, y, z, p]) (post := [])
      hS rfl
  rw [hbytes, hbits, highNibble_of_bits]
  rfl

/-- Settles O49: the bytes of the frame (`hoermann_bytes_of_stream`) are accepted without a check; any
other bucket fails the gate. -/
theorem hoermannFrameIsReadBack : Obligations.HoermannFrameIsReadBack := by
  intro cfg hightime b sc hlegal p
  obtain ⟨-, -, hmin, -⟩ := hlegal
  constructor
  · intro v0 v1 v2 v3 x y z hbyte hbit hzero hstream
    have hcount : b.bitCount ≤ 8 * cfg.maxmsg := by
      have : b.bitCount = 35 := by simp [Bucket.bitCount, hbyte, hbit]
      omega
    have hS : streamOf b ++ [projectedBit hightime b] =
        [v0, v1, v2, v3].flatMap msbBits ++ [x, y, z, p] := by
      rw [hstream, List.append_assoc]
      rfl
    obtain ⟨obuf, haccept, hread⟩ := acceptBytes_of_le (cfg := cfg) (bytes := [v0, v1, v2, v3,
      BitVec.ofNat 8 (128 * x.toNat + 64 * y.toNat + 32 * z.toNat + 16 * p.toNat)])
      .hoermann (by simp; omega)
    refine ⟨⟨obuf, 5, false⟩, ?_, rfl, rfl, by simp [List.range_succ, hread]⟩
    simp only [analyzeHoermann, if_pos (And.intro hbyte (And.intro hbit hzero)), extendedStream,
      bitStream_eq hcount, ok_bind, hoermann_bytes_of_stream hS]
    exact haccept
  · intro hgate
    rw [analyzeHoermann]
    refine if_neg fun hopen => ?_
    obtain ⟨hbyte, hbit, hlike⟩ := hopen
    rcases hgate with hlen | hzero
    · exact hlen ⟨hbyte, hbit⟩
    · exact ne_true_of_eq_false hzero hlike

end Sys2Proof.Machine

/-! ## PROOF. The bit-serial extractor (R223, R224) and the three analyzers that use it (R226 to R228,
R232, R233). The extractor's scratch is summed up as the bytes it has finished and the byte it is
filling; `GxReads` says what a run of bits makes of that, `GxRefuses` which bits make it fail, and the
streams of whole groups are read by composing the rules of single bits. -/

namespace Sys2Proof.Machine

/-! ### What the extractor's variables show -/

/-- The finished bytes, the byte that is being filled, `obi` and `nibble`. -/
structure GxView where
  done : List Byte
  cur : Byte
  obi : Int
  nibble : Bool

/-- The extractor's variables are those of the view: `obuf` holds its bytes and 0 beyond them. -/
structure GxView.Of (a : GxView) (g : Gx) : Prop where
  oby : g.scratch.oby.toNat = a.done.length
  bytes : ∀ j, Memory.read g.scratch.obuf j = (a.done ++ [a.cur]).getD j 0
  obi : g.obi = a.obi
  nibble : g.scratch.nibble = a.nibble

/-- The variables show the view after `p` bits, within the arrays. -/
structure GxHolds (cfg : Config) (t : GxKind) (a : GxView) (g : Gx) (p : Nat) : Prop where
  bounds : 13 ≤ cfg.maxmsg ∧ cfg.maxmsg ≤ 255
  ok : GxOk cfg t g p
  view : a.Of g

/-- From view `a` the extractor goes on over the bits `S` to view `b`. -/
def GxReads (cfg : Config) (t : GxKind) (S : List Bool) (a b : GxView) : Prop :=
  ∀ g p, GxHolds cfg t a g p → p + S.length ≤ 8 * cfg.maxmsg + 1 →
    ∃ g', (∀ rest, gxLoop cfg t (S ++ rest) g = gxLoop cfg t rest g') ∧
      GxHolds cfg t b g' (p + S.length)

/-- From view `a` the extractor fails within the bits `S`. -/
def GxRefuses (cfg : Config) (t : GxKind) (S : List Bool) (a : GxView) : Prop :=
  ∀ g p, GxHolds cfg t a g p → p + S.length ≤ 8 * cfg.maxmsg + 1 →
    ∃ sc, ∀ rest, gxLoop cfg t (S ++ rest) g = .ok (.fail sc)

section
variable {cfg : Config} {t : GxKind} {a b c : GxView} {S T : List Bool} {bit : Bool}

theorem gxLoop_cons_more {g g' : Gx} {rest : List Bool} (h : gxStep cfg t bit g = .ok (.more g')) :
    gxLoop cfg t (bit :: rest) g = gxLoop cfg t rest g' := by
  simp only [gxLoop, h, ok_bind]

theorem gxLoop_cons_fail {g : Gx} {sc : Scratch} {rest : List Bool}
    (h : gxStep cfg t bit g = .ok (.fail sc)) :
    gxLoop cfg t (bit :: rest) g = .ok (.fail sc) := by
  simp only [gxLoop, h, ok_bind]

theorem GxReads.nil (a : GxView) : GxReads cfg t [] a a :=
  fun g _ h _ => ⟨g, fun _ => rfl, h⟩

theorem GxReads.append (hS : GxReads cfg t S a b) (hT : GxReads cfg t T b c) :
    GxReads cfg t (S ++ T) a c := by
  intro g p h hp
  rw [List.length_append] at hp
  obtain ⟨g₁, hloop₁, h₁⟩ := hS g p h (by omega)
  obtain ⟨g₂, hloop₂, h₂⟩ := hT g₁ _ h₁ (by omega)
  refine ⟨g₂, fun rest => ?_, ?_⟩
  · rw [List.append_assoc, hloop₁, hloop₂]
  · rwa [List.length_append, ← Nat.add_assoc]

theorem GxReads.append_refuses (hS : GxReads cfg t S a b) (hT : GxRefuses cfg t T b) :
    GxRefuses cfg t (S ++ T) a := by
  intro g p h hp
  rw [List.length_append] at hp
  obtain ⟨g₁, hloop₁, h₁⟩ := hS g p h (by omega)
  obtain ⟨sc, hfail⟩ := hT g₁ _ h₁ (by omega)
  exact ⟨sc, fun rest => by rw [List.append_assoc, hloop₁, hfail]⟩

/-- A step that goes on keeps the variables within the arrays. -/
theorem GxHolds.step {g g' : Gx} {p : Nat} (h : GxHolds cfg t a g p)
    (hp : p + 1 ≤ 8 * cfg.maxmsg + 1) (hstep : gxStep cfg t bit g = .ok (.more g'))
    (hview : b.Of g') : GxHolds cfg t b g' (p + 1) := by
  have hout := gxStep_outcome bit h.bounds h.ok hp
  rw [hstep] at hout
  cases hout with
  | more _ hok => exact ⟨h.bounds, hok, hview⟩

theorem GxReads.of_step (h : ∀ g p, GxHolds cfg t a g p → p + 1 ≤ 8 * cfg.maxmsg + 1 →
    ∃ g', gxStep cfg t bit g = .ok (.more g') ∧ b.Of g') : GxReads cfg t [bit] a b := by
  intro g p hg hp
  obtain ⟨g', hstep, hview⟩ := h g p hg hp
  exact ⟨g', fun _ => gxLoop_cons_more hstep, hg.step hp hstep hview⟩

theorem GxRefuses.of_step (h : ∀ g p, GxHolds cfg t a g p →
    gxStep cfg t bit g = .ok (.fail g.scratch)) : GxRefuses cfg t [bit] a :=
  fun g p hg _ => ⟨g.scratch, fun _ => gxLoop_cons_fail (h g p hg)⟩

/-! ### The rules of single bits -/

/-- The view at the beginning of the next byte (R223). -/
def GxView.next (a : GxView) : GxView := ⟨a.done ++ [a.cur], 0, 7, a.nibble⟩

/-- The view after a data bit: FS20 fills MSB first, EM and KS300 LSB first, and the first bit of a
KS300 high nibble ends the half byte (R223, R224). -/
def GxView.data (t : GxKind) (a : GxView) (bit : Bool) : GxView :=
  ⟨a.done, if bit then a.cur ||| (1#8 <<< if t = .fs20 then a.obi.toNat else (7 - a.obi).toNat)
    else a.cur, a.obi - 1, if t = .ks300 ∧ a.obi = 3 then false else a.nibble⟩

theorem getD_concat (bytes : List Byte) (v : Byte) (j : Nat) :
    (bytes ++ [v]).getD j 0 =
      if j < bytes.length then bytes.getD j 0 else if j = bytes.length then v else 0 := by
  split
  · next h => rw [List.getD_append _ _ _ _ h]
  · next h =>
    rw [List.getD_append_right _ _ _ _ (Nat.le_of_not_lt h)]
    split
    · next h => rw [h, Nat.sub_self]; rfl
    · next h' => exact List.getD_eq_default _ _ (by simp only [List.length_singleton]; omega)

@[simp] theorem getD_concat_zero (bytes : List Byte) (j : Nat) :
    (bytes ++ [0]).getD j 0 = bytes.getD j 0 := by
  rw [getD_concat]
  split
  · rfl
  · next h => rw [List.getD_eq_default _ _ (Nat.le_of_not_lt h), ite_self]

/-- `obuf[oby]` is the byte that is being filled. -/
theorem GxHolds.memRead {g : Gx} {p : Nat} (h : GxHolds cfg t a g p) :
    memRead cfg g.scratch.obuf g.scratch.oby.toNat = .ok a.cur := by
  rw [memRead_of_lt _ h.ok.lt, h.view.bytes, h.view.oby, getD_concat, if_neg (lt_irrefl _),
    if_pos rfl]

theorem GxHolds.nextByte {g : Gx} {p : Nat} (h : GxHolds cfg t a g p) (hobi : a.obi = -1)
    (hp : p + 1 ≤ 8 * cfg.maxmsg + 1) :
    ∃ g', gxNextByte cfg g = .ok (.more g') ∧ a.next.Of g' := by
  have hbytes := h.ok.bytes
  rw [h.view.obi, hobi] at hbytes
  have hbounds := h.bounds
  have hlt := h.ok.lt
  have hoby : (g.scratch.oby + 1).toNat = g.scratch.oby.toNat + 1 := by
    rw [BitVec.toNat_add]
    exact Nat.mod_eq_of_lt (show g.scratch.oby.toNat + 1 < 256 by omega)
  refine ⟨⟨⟨Memory.write g.scratch.obuf (g.scratch.oby + 1).toNat 0, g.scratch.oby + 1,
    g.scratch.nibble⟩, 7⟩, ?_, ?_, fun j => ?_, rfl, h.view.nibble⟩
  · rw [gxNextByte, memWrite_of_lt _ _ (by omega)]
    rfl
  · rw [GxView.next, List.length_append, List.length_singleton, ← h.view.oby, hoby]
  · rw [Memory.read_write h.ok.wf, GxView.next, getD_concat_zero, h.view.bytes, hoby, h.view.oby]
    split
    · exact (List.getD_eq_default _ _ (by rw [List.length_append, List.length_singleton]; omega)).symm
    · rfl

/-- A bit of a data place: not the place of a check bit, nor of a separator (R223, R224). -/
theorem GxReads.data (hlo : 0 ≤ a.obi) (hsep : t = .ks300 → a.obi = 3 → a.nibble = true) :
    GxReads cfg t [bit] a (a.data t bit) := by
  refine .of_step fun g p h hp => ?_
  have hobi := h.view.obi
  have hstep : gxStep cfg t bit g = gxDataBit cfg t bit
      ⟨⟨g.scratch.obuf, g.scratch.oby, (a.data t bit).nibble⟩, g.obi⟩ := by
    have hne : ¬ g.obi = -1 := by omega
    rw [gxStep, if_neg fun hk => hne hk.2, if_neg fun hk => by
      have := hsep hk.1 (hobi ▸ hk.2.1)
      rw [← h.view.nibble, hk.2.2] at this
      exact Bool.noConfusion this]
    by_cases hk : t = .ks300 ∧ g.obi = 3
    · simp only [if_pos hk, if_neg hne, GxView.data, ← hobi]
    · simp only [if_neg hk, if_neg hne, GxView.data, ← hobi, ← h.view.nibble]
  cases bit with
  | false =>
    exact ⟨_, hstep, h.view.oby, h.view.bytes, by simp only [GxView.data, hobi], rfl⟩
  | true =>
    refine ⟨⟨⟨Memory.write g.scratch.obuf g.scratch.oby.toNat (a.data t true).cur, g.scratch.oby,
      (a.data t true).nibble⟩, g.obi - 1⟩, ?_, h.view.oby, fun j => ?_, ?_, rfl⟩
    · simp only [hstep, gxDataBit, if_pos, h.memRead, ok_bind, memWrite_of_lt _ _ h.ok.lt, hobi,
        GxView.data]
    · rw [Memory.read_write h.ok.wf, h.view.bytes, h.view.oby, getD_concat, getD_concat,
        show (a.data t true).done = a.done from rfl]
      split
      · next hj => rw [if_neg (by omega)]
      · rfl
    · rw [hobi]
      rfl

/-! The check bit of FS20, the stop bit of EM and the separators of KS300. -/

theorem GxReads.fs20_parity (hobi : a.obi = -1) : GxReads cfg .fs20 [parity a.cur] a a.next := by
  refine .of_step fun g p h hp => ?_
  obtain ⟨g', hnext, hview⟩ := h.nextByte hobi hp
  refine ⟨g', ?_, hview⟩
  have hg : g.obi = -1 := h.view.obi.trans hobi
  simp [gxStep, hg, gxCheckBit, h.memRead, hnext]

theorem GxRefuses.fs20_parity (hobi : a.obi = -1) : GxRefuses cfg .fs20 [!parity a.cur] a := by
  refine .of_step fun g p h => ?_
  have hg : g.obi = -1 := h.view.obi.trans hobi
  simp [gxStep, hg, gxCheckBit, h.memRead]

theorem GxReads.em_stop (hobi : a.obi = -1) : GxReads cfg .em [true] a a.next := by
  refine .of_step fun g p h hp => ?_
  obtain ⟨g', hnext, hview⟩ := h.nextByte hobi hp
  have hg : g.obi = -1 := h.view.obi.trans hobi
  exact ⟨g', by simp [gxStep, hg, gxCheckBit, hnext], hview⟩

theorem GxRefuses.em_stop (hobi : a.obi = -1) : GxRefuses cfg .em [false] a := by
  refine .of_step fun g p h => ?_
  have hg : g.obi = -1 := h.view.obi.trans hobi
  simp [gxStep, hg, gxCheckBit]

theorem GxReads.ks300_byte (hobi : a.obi = -1) : GxReads cfg .ks300 [true] a a.next := by
  refine .of_step fun g p h hp => ?_
  obtain ⟨g', hnext, hview⟩ := h.nextByte hobi hp
  have hg : g.obi = -1 := h.view.obi.trans hobi
  exact ⟨g', by simp [gxStep, hg, hnext], hview⟩

theorem GxReads.ks300_half (hobi : a.obi = 3) (hnibble : a.nibble = false) :
    GxReads cfg .ks300 [true] a ⟨a.done, a.cur, 3, true⟩ := by
  refine .of_step fun g p h hp => ?_
  have hg : g.obi = 3 := h.view.obi.trans hobi
  have hn : g.scratch.nibble = false := h.view.nibble.trans hnibble
  exact ⟨⟨⟨g.scratch.obuf, g.scratch.oby, true⟩, g.obi⟩, by simp [gxStep, hg, hn],
    h.view.oby, h.view.bytes, hg, rfl⟩

theorem GxRefuses.ks300_separator (hobi : a.obi = -1 ∨ a.obi = 3 ∧ a.nibble = false) :
    GxRefuses cfg .ks300 [false] a := by
  refine .of_step fun g p h => ?_
  rcases hobi with hobi | ⟨hobi, hnibble⟩
  · have hg : g.obi = -1 := h.view.obi.trans hobi
    simp [gxStep, hg]
  · have hg : g.obi = 3 := h.view.obi.trans hobi
    have hn : g.scratch.nibble = false := h.view.nibble.trans hnibble
    simp [gxStep, hg, hn]

/-! ### The rules of groups -/

/-- The view after several data bits. -/
def GxView.dataBits (t : GxKind) (a : GxView) (bits : List Bool) : GxView := bits.foldl (·.data t) a

@[simp] theorem GxView.dataBits_done (bits : List Bool) : (a.dataBits t bits).done = a.done := by
  induction bits generalizing a with
  | nil => rfl
  | cons bit bits ih => exact ih (a := a.data t bit)

@[simp] theorem GxView.dataBits_obi (bits : List Bool) :
    (a.dataBits t bits).obi = a.obi - bits.length := by
  induction bits generalizing a with
  | nil => exact (sub_zero _).symm
  | cons bit bits ih =>
    have hbits := ih (a := a.data t bit)
    have hobi : (a.data t bit).obi = a.obi - 1 := rfl
    rw [hobi] at hbits
    rw [List.length_cons, Nat.cast_succ]
    exact hbits.trans (by ring)

theorem GxView.dataBits_nibble (ht : t ≠ .ks300) (bits : List Bool) :
    (a.dataBits t bits).nibble = a.nibble := by
  induction bits generalizing a with
  | nil => rfl
  | cons bit bits ih =>
    exact (ih (a := a.data t bit)).trans (if_neg fun h => ht h.1)

/-- Data bits up to the next check bit or separator. -/
theorem GxReads.dataBits (bits : List Bool) (hlen : (bits.length : Int) ≤ a.obi + 1)
    (hsep : t = .ks300 → (bits.length : Int) ≤ a.obi - 3 ∨ a.obi < 3 ∨ a.obi = 3 ∧ a.nibble = true) :
    GxReads cfg t bits a (a.dataBits t bits) := by
  induction bits generalizing a with
  | nil => exact .nil a
  | cons bit bits ih =>
    rw [List.length_cons, Nat.cast_succ] at hlen hsep
    have hobi : (a.data t bit).obi = a.obi - 1 := rfl
    refine GxReads.append (S := [bit]) (.data (by omega) fun hk h3 => ?_)
      (ih (by omega) fun hk => ?_)
    · rcases hsep hk with h | h | h
      · omega
      · omega
      · exact h.2
    · rcases hsep hk with h | h | h <;> omega

/-! ### The streams of whole groups -/

theorem dataBits_msbBits (bytes : List Byte) (v : Byte) :
    (⟨bytes, 0, 7, false⟩ : GxView).dataBits .fs20 (msbBits v) = ⟨bytes, v, -1, false⟩ := by
  have hcur : ((⟨[], 0, 7, false⟩ : GxView).dataBits .fs20 (msbBits v)).cur = v := by
    decide +revert
  exact congrArg (fun cur => (⟨bytes, cur, -1, false⟩ : GxView)) hcur

theorem dataBits_lsbBits (bytes : List Byte) (v : Byte) :
    (⟨bytes, 0, 7, false⟩ : GxView).dataBits .em (lsbBits v) = ⟨bytes, v, -1, false⟩ := by
  have hcur : ((⟨[], 0, 7, false⟩ : GxView).dataBits .em (lsbBits v)).cur = v := by
    decide +revert
  exact congrArg (fun cur => (⟨bytes, cur, -1, false⟩ : GxView)) hcur

theorem dataBits_lowNibble (bytes : List Byte) (x : BitVec 4) :
    (⟨bytes, 0, 7, false⟩ : GxView).dataBits .ks300 (nibbleLsbBits x) =
      ⟨bytes, x.setWidth 8, 3, false⟩ := by
  have hcur : ((⟨[], 0, 7, false⟩ : GxView).dataBits .ks300 (nibbleLsbBits x)).cur =
      x.setWidth 8 := by
    decide +revert
  exact congrArg (fun cur => (⟨bytes, cur, 3, false⟩ : GxView)) hcur

theorem dataBits_highNibble (bytes : List Byte) (x y : BitVec 4) :
    (⟨bytes, x.setWidth 8, 3, true⟩ : GxView).dataBits .ks300 (nibbleLsbBits y) =
      ⟨bytes, y ++ x, -1, false⟩ := by
  have hcur : ((⟨[], x.setWidth 8, 3, true⟩ : GxView).dataBits .ks300 (nibbleLsbBits y)).cur =
      y ++ x := by
    decide +revert
  exact congrArg (fun cur => (⟨bytes, cur, -1, false⟩ : GxView)) hcur

theorem GxReads.msb_byte (bytes : List Byte) (v : Byte) :
    GxReads cfg .fs20 (msbBits v) ⟨bytes, 0, 7, false⟩ ⟨bytes, v, -1, false⟩ :=
  dataBits_msbBits bytes v ▸ .dataBits (a := ⟨bytes, 0, 7, false⟩) (msbBits v)
    (by simp) (by simp)

theorem GxReads.lsb_byte (bytes : List Byte) (v : Byte) :
    GxReads cfg .em (lsbBits v) ⟨bytes, 0, 7, false⟩ ⟨bytes, v, -1, false⟩ :=
  dataBits_lsbBits bytes v ▸ .dataBits (a := ⟨bytes, 0, 7, false⟩) (lsbBits v)
    (by simp [lsbBits]) (by simp)

theorem GxReads.low_nibble (bytes : List Byte) (x : BitVec 4) :
    GxReads cfg .ks300 (nibbleLsbBits x) ⟨bytes, 0, 7, false⟩
      ⟨bytes, x.setWidth 8, 3, false⟩ :=
  dataBits_lowNibble bytes x ▸ .dataBits (a := ⟨bytes, 0, 7, false⟩) (nibbleLsbBits x)
    (by simp [nibbleLsbBits]) (by simp [nibbleLsbBits])

theorem GxReads.high_nibble (bytes : List Byte) (x y : BitVec 4) :
    GxReads cfg .ks300 (nibbleLsbBits y) ⟨bytes, x.setWidth 8, 3, true⟩
      ⟨bytes, y ++ x, -1, false⟩ :=
  dataBits_highNibble bytes x y ▸ .dataBits (a := ⟨bytes, x.setWidth 8, 3, true⟩)
    (nibbleLsbBits y) (by simp [nibbleLsbBits]) (by simp)

/-- FS20 groups with their right parity (R223, R225). -/
theorem GxReads.fs20_stream (vs bytes : List Byte) :
    GxReads cfg .fs20 (fs20Stream vs) ⟨bytes, 0, 7, false⟩ ⟨bytes ++ vs, 0, 7, false⟩ := by
  induction vs generalizing bytes with
  | nil => rw [List.append_nil]; exact .nil _
  | cons v vs ih =>
    have hparity := GxReads.fs20_parity (cfg := cfg) (a := ⟨bytes, v, -1, false⟩) rfl
    rw [parity_eq_oddOnes] at hparity
    have hrest := ih (bytes ++ [v])
    rw [List.append_assoc] at hrest
    exact ((GxReads.msb_byte bytes v).append hparity).append hrest

/-- EM groups with their stop bit (R223). -/
theorem GxReads.em_stream (vs bytes : List Byte) :
    GxReads cfg .em (emStream vs) ⟨bytes, 0, 7, false⟩ ⟨bytes ++ vs, 0, 7, false⟩ := by
  induction vs generalizing bytes with
  | nil => rw [List.append_nil]; exact .nil _
  | cons v vs ih =>
    have hrest := ih (bytes ++ [v])
    rw [List.append_assoc] at hrest
    exact ((GxReads.lsb_byte bytes v).append (.em_stop rfl)).append hrest

/-- Two nibbles to a byte, the low one first; a nibble left over is a half byte (R224). -/
def ks300View : List Byte → List (BitVec 4) → GxView
  | bytes, [] => ⟨bytes, 0, 7, false⟩
  | bytes, [x] => ⟨bytes, x.setWidth 8, 3, true⟩
  | bytes, x :: y :: q => ks300View (bytes ++ [y ++ x]) q

/-- KS300 nibbles with their separators (R224). -/
theorem GxReads.ks300_stream (q : List (BitVec 4)) (bytes : List Byte) :
    GxReads cfg .ks300 (ks300Stream q) ⟨bytes, 0, 7, false⟩ (ks300View bytes q) := by
  induction bytes, q using ks300View.induct with
  | case1 bytes => exact .nil _
  | case2 bytes x => exact (GxReads.low_nibble bytes x).append (.ks300_half rfl rfl)
  | case3 bytes x y q ih =>
    have hlow := (GxReads.low_nibble bytes x).append (GxReads.ks300_half (cfg := cfg) rfl rfl)
    have hhigh := (GxReads.high_nibble bytes x y).append (GxReads.ks300_byte (cfg := cfg) rfl)
    have h := hlow.append (hhigh.append ih)
    rwa [List.append_assoc] at h

/-! ### The extractor's result -/

/-- What the extractor counts after the stream: EM's last byte without its stop bit too (R223). -/
def GxView.finish (t : GxKind) (a : GxView) : GxView := if t = .em ∧ a.obi = -1 then a.next else a

theorem gxInitial_holds (hc : 13 ≤ cfg.maxmsg ∧ cfg.maxmsg ≤ 255) :
    GxHolds cfg t ⟨[], 0, 7, false⟩ ⟨⟨Memory.write [] 0 0, 0, false⟩, 7⟩ 0 where
  bounds := hc
  ok := ⟨Memory.wf_nil _, by simp, by simp, show 0 < cfg.maxmsg by omega, by simp, fun _ _ => rfl⟩
  view := ⟨rfl, fun j => (getD_concat_zero [] j).symm, rfl, rfl⟩

/-- Refused bits make the extractor answer FAIL (R223). -/
theorem gx_of_refuses (hc : 13 ≤ cfg.maxmsg ∧ cfg.maxmsg ≤ 255)
    (h : GxRefuses cfg t S ⟨[], 0, 7, false⟩) (rest : List Bool)
    (hlen : (S ++ rest).length ≤ 8 * cfg.maxmsg + 1) :
    ∃ sc, gx cfg t (S ++ rest) = .ok (sc, false) := by
  rw [List.length_append] at hlen
  obtain ⟨sc, hfail⟩ := h _ 0 (gxInitial_holds hc) (by omega)
  refine ⟨sc, ?_⟩
  simp only [gx, memWrite_of_lt (cfg := cfg) [] 0 (show 0 < cfg.maxmsg by omega), ok_bind,
    hfail rest]

/-- The scratch holds the items of the view: its bytes, and its half byte. -/
structure GxItems (cfg : Config) (a : GxView) (sc : Scratch) : Prop where
  fits : ScratchFits cfg sc
  oby : sc.oby.toNat = a.done.length
  nibble : sc.nibble = a.nibble
  bytes : ∀ j < a.done.length + a.nibble.toNat,
    Memory.read sc.obuf j = (a.done ++ [a.cur]).getD j 0

theorem GxHolds.finish {g : Gx} {p : Nat} (h : GxHolds cfg t a g p)
    (hp : p ≤ 8 * cfg.maxmsg + 1) :
    (gxFinish t g).oby.toNat = (a.finish t).done.length ∧
    (gxFinish t g).nibble = (a.finish t).nibble ∧
    ∀ j, Memory.read (gxFinish t g).obuf j = ((a.finish t).done ++ [(a.finish t).cur]).getD j 0 := by
  rw [gxFinish, GxView.finish, h.view.obi]
  split
  · next hem =>
    have hbytes := h.ok.bytes
    rw [h.view.obi, hem.2] at hbytes
    have hbounds := h.bounds
    refine ⟨?_, h.view.nibble, fun j => ?_⟩
    · rw [BitVec.toNat_add, GxView.next, List.length_append, List.length_singleton, ← h.view.oby]
      exact Nat.mod_eq_of_lt (show g.scratch.oby.toNat + 1 < 256 by omega)
    · rw [GxView.next, getD_concat_zero, h.view.bytes]
  · exact ⟨h.view.oby, h.view.nibble, h.view.bytes⟩

/-- A stream that is read to its end leaves the items of the last view, and the extractor answers OK
when there is one (R223, R224). -/
theorem gx_of_reads (hc : 13 ≤ cfg.maxmsg ∧ cfg.maxmsg ≤ 255)
    (h : GxReads cfg t S ⟨[], 0, 7, false⟩ a) (hlen : S.length ≤ 8 * cfg.maxmsg + 1) :
    ∃ sc, GxItems cfg (a.finish t) sc ∧
      gx cfg t S = .ok (sc, decide (0 < (a.finish t).done.length ∨ (a.finish t).nibble = true)) := by
  obtain ⟨g, hloop, hg⟩ := h _ 0 (gxInitial_holds hc) (by omega)
  have hrun := hloop []
  rw [List.append_nil] at hrun
  obtain ⟨hoby, hnibble, hbytes⟩ := hg.finish (by omega)
  obtain ⟨hwf, hlt, hzero⟩ := gxFinish_ok hc hg.ok (by omega)
  simp only [gx, memWrite_of_lt (cfg := cfg) [] 0 (show 0 < cfg.maxmsg by omega), ok_bind, hrun,
    gxLoop]
  by_cases hnone : (gxFinish t g).oby = 0 ∧ (gxFinish t g).nibble = false
  · have hdone : (a.finish t).done.length = 0 := by rw [← hoby, hnone.1]; rfl
    refine ⟨gxFinish t g, ⟨⟨hwf, ?_⟩, hoby, hnibble, fun j _ => hbytes j⟩, ?_⟩
    · rw [hnone.2]; exact hlt.le
    · rw [if_pos hnone, hdone, ← hnibble, hnone.2]; rfl
  · obtain ⟨sc, hdrop, hoby', hnibble', hread, hfits, -⟩ := gxDropPartial_ok hwf hlt hzero
    refine ⟨sc, ⟨hfits, ?_, ?_, fun j hj => ?_⟩, ?_⟩
    · rw [hoby', hoby]
    · rw [hnibble', hnibble]
    · rw [hread j (by rwa [hoby, hnibble]), hbytes]
    · have hsome : 0 < (a.finish t).done.length ∨ (a.finish t).nibble = true := by
        by_contra hno
        rw [not_or, Bool.not_eq_true, Nat.not_lt, Nat.le_zero] at hno
        exact hnone ⟨BitVec.eq_of_toNat_eq (hoby.trans hno.1), hnibble.trans hno.2⟩
      rw [if_neg hnone, hdrop, ok_bind, decide_eq_true hsome]

/-- The bytes of a scratch without a half byte. -/
theorem GxItems.map_read {sc : Scratch} (h : GxItems cfg a sc) {n : Nat}
    (hn : n ≤ a.done.length) : (List.range n).map (Memory.read sc.obuf) = a.done.take n := by
  refine List.ext_getElem (by simpa using hn) fun i hi hi' => ?_
  rw [List.length_map, List.length_range] at hi
  have hlt : i < a.done.length := by omega
  rw [List.getElem_map, List.getElem_range, h.bytes i (by omega), List.getElem_take,
    List.getD_append _ _ _ _ hlt, List.getD_eq_getElem _ _ hlt]

end

end Sys2Proof.Machine

/-! ## PROOF. The analyzers that use the extractor: FS20 and FHT (R226, R227), EM (R228) and KS300 (R232,
R233). -/

namespace Sys2Proof.Machine

/-- The bounds of MAXMSG (R7). -/
theorem legalConfig.maxmsg_bounds {cfg : Config} (h : legalConfig cfg) :
    13 ≤ cfg.maxmsg ∧ cfg.maxmsg ≤ 255 := by
  obtain ⟨-, -, hmin, hmax, -⟩ := h
  exact ⟨hmin, hmax⟩

/-- The bytes up to and with the one just written. -/
theorem map_read_write {bound : Nat} {m : Memory} (h : Memory.wf bound m) (n : Nat) (v : Byte) :
    (List.range (n + 1)).map (Memory.read (Memory.write m n v)) =
      (List.range n).map (Memory.read m) ++ [v] := by
  rw [List.range_succ, List.map_append, List.map_singleton, Memory.read_write h, if_pos rfl]
  refine congrArg (· ++ [v]) (List.map_congr_left fun j hj => ?_)
  rw [Memory.read_write h, if_neg (List.mem_range.1 hj).ne]

/-! ### FS20 and FHT -/

/-- The extractor over FS20 groups and at most 8 further bits (R223). -/
theorem gx_fs20_of_stream {cfg : Config} (hc : 13 ≤ cfg.maxmsg ∧ cfg.maxmsg ≤ 255)
    {bytes : List Byte} {extra : List Bool} (hextra : extra.length ≤ 8)
    (hlen : (fs20Stream bytes ++ extra).length ≤ 8 * cfg.maxmsg + 1) :
    ∃ a sc, a.done = bytes ∧ a.nibble = false ∧ GxItems cfg a sc ∧
      gx cfg .fs20 (fs20Stream bytes ++ extra) = .ok (sc, decide (0 < bytes.length)) := by
  have hreads := (GxReads.fs20_stream (cfg := cfg) bytes []).append
    (.dataBits extra (by simpa using hextra) (by simp))
  obtain ⟨sc, hitems, hgx⟩ := gx_of_reads hc hreads hlen
  have hfinish (a : GxView) : a.finish .fs20 = a := if_neg fun h => GxKind.noConfusion h.1
  have hnibble : ((⟨bytes, 0, 7, false⟩ : GxView).dataBits .fs20 extra).nibble = false :=
    GxView.dataBits_nibble (by decide) extra
  rw [List.nil_append, hfinish] at hitems hgx
  exact ⟨_, sc, GxView.dataBits_done extra, hnibble, hitems, by
    simpa only [GxView.dataBits_done, hnibble, Bool.false_eq_true, or_false] using hgx⟩

/-- A stream the extractor refuses makes the analyzer fail (R223, R226). -/
theorem analyzeFs20_of_gx_fail {cfg : Config} {b : Bucket} {sc : Scratch}
    (hcount : b.bitCount ≤ 8 * cfg.maxmsg) (hgx : gx cfg .fs20 (streamOf b) = .ok (sc, false)) :
    analyzeFs20 cfg b = .ok ⟨sc, none⟩ := by
  simp only [analyzeFs20, bitStream_eq hcount, ok_bind, hgx]

/-- The trailer of a frame that is read back decides, in the order of R226 and R227. -/
theorem analyzeFs20_of_items {cfg : Config} {b : Bucket} {a : GxView} {sc : Scratch}
    {payload : List Byte} {trailer : Byte} (hcount : b.bitCount ≤ 8 * cfg.maxmsg)
    (hgx : gx cfg .fs20 (streamOf b) = .ok (sc, true)) (hitems : GxItems cfg a sc)
    (hdone : a.done = payload ++ [trailer]) :
    analyzeFs20 cfg b =
      if trailer = cksum1 6 payload then .ok ⟨sc, some .fs20⟩
      else if trailer = cksum1 6 payload + 1 then
        .ok ⟨⟨Memory.write sc.obuf payload.length (cksum1 6 payload), sc.oby, sc.nibble⟩, some .fs20⟩
      else if trailer = cksum1 12 payload then .ok ⟨sc, some .fht⟩ else .ok ⟨sc, none⟩ := by
  have hoby := hitems.oby
  rw [hdone, List.length_append, List.length_singleton] at hoby
  have hlt : payload.length < cfg.maxmsg := by
    have := hitems.fits.2
    omega
  have hpayload : (List.range payload.length).map (Memory.read sc.obuf) = payload := by
    rw [hitems.map_read (by simp [hdone]), hdone, List.take_left]
  have htrailer : Memory.read sc.obuf payload.length = trailer := by
    rw [hitems.bytes _ (by simp [hdone]; omega), hdone, List.append_assoc,
      List.getD_append_right _ _ _ _ le_rfl, Nat.sub_self]
    rfl
  simp only [analyzeFs20, bitStream_eq hcount, ok_bind, hgx, hoby, Nat.add_sub_cancel,
    memRead_of_lt _ hlt, memSlice_of_le _ hlt.le, memWrite_of_lt _ _ hlt, hpayload, htrailer,
    eq_comm (a := trailer)]

/-- Settles O43: the groups are read back (`gx_fs20_of_stream`) and the trailer is tested in order
(`analyzeFs20_of_items`). -/
theorem fs20TrailerDecidesTheFrame : Obligations.Fs20TrailerDecidesTheFrame := by
  intro cfg b payload trailer extra hlegal hcount hextra hstream c6 c12
  have hlen : (fs20Stream (payload ++ [trailer]) ++ extra).length ≤ 8 * cfg.maxmsg + 1 := by
    rw [← hstream, streamOf_length]
    omega
  obtain ⟨a, sc, hdone, hnibble, hitems, hgx⟩ :=
    gx_fs20_of_stream hlegal.maxmsg_bounds hextra hlen
  rw [← hstream, decide_eq_true (by simp)] at hgx
  have hrun := analyzeFs20_of_items hcount hgx hitems hdone
  have hc6 : cksum1 6 payload = c6 := cksum1_eq 6 payload
  have hc12 : cksum1 12 payload = c12 := cksum1_eq 12 payload
  rw [hc6, hc12] at hrun
  have hoby : sc.oby.toNat = payload.length + 1 := by
    rw [hitems.oby, hdone, List.length_append, List.length_singleton]
  have hread : (List.range (payload.length + 1)).map (Memory.read sc.obuf) =
      payload ++ [trailer] := by
    rw [hitems.map_read (by simp [hdone]), hdone, List.take_of_length_le (by simp)]
  have hsc : sc.nibble = false := hitems.nibble.trans hnibble
  have hsucc : c6 ≠ c6 + 1 := by bv_omega
  by_cases h6 : trailer = c6
  · refine ⟨sc, hoby, hsc, ?_, ?_⟩
    · rw [hread, h6, if_neg hsucc]
    · rw [hrun, if_pos h6, if_pos (.inl h6)]
  rw [if_neg h6] at hrun
  by_cases h7 : trailer = c6 + 1
  · rw [if_pos h7] at hrun
    refine ⟨⟨Memory.write sc.obuf payload.length c6, sc.oby, sc.nibble⟩, hoby, hsc, ?_, ?_⟩
    · rw [List.range_succ, List.map_append] at hread
      have hpayload := (List.append_inj' hread rfl).1
      rw [if_pos h7, map_read_write hitems.fits.1, hpayload]
    · rw [hrun, if_pos (.inr h7)]
  · rw [if_neg h7] at hrun
    refine ⟨sc, hoby, hsc, by rw [hread, if_neg h7], ?_⟩
    rw [hrun, if_neg (not_or.2 ⟨h6, h7⟩)]
    split <;> rfl

/-- Settles O44: a wrong parity bit is refused where it stands (`GxRefuses.fs20_parity`), and eight bits
leave no item. -/
theorem fs20WrongParityFails : Obligations.Fs20WrongParityFails := by
  intro cfg b hlegal hcount
  have hlen : (streamOf b).length ≤ 8 * cfg.maxmsg + 1 := by
    rw [streamOf_length]
    omega
  constructor
  · intro good v rest hstream
    have hparity := GxRefuses.fs20_parity (cfg := cfg) (a := ⟨good, v, -1, false⟩) rfl
    rw [parity_eq_oddOnes] at hparity
    have hrefuses := ((GxReads.fs20_stream (cfg := cfg) good []).append
      (GxReads.msb_byte good v)).append_refuses hparity
    rw [hstream] at hlen
    obtain ⟨sc, hgx⟩ := gx_of_refuses hlegal.maxmsg_bounds hrefuses rest hlen
    exact ⟨sc, analyzeFs20_of_gx_fail hcount (hstream ▸ hgx)⟩
  · intro hshort
    obtain ⟨a, sc, -, -, -, hgx⟩ := gx_fs20_of_stream (bytes := []) hlegal.maxmsg_bounds
      (extra := streamOf b) (by rwa [streamOf_length]) hlen
    exact ⟨sc, analyzeFs20_of_gx_fail hcount hgx⟩

/-! ### EM -/

/-- The extractor over EM groups and an incomplete one: 8 further bits count as a byte (R223). -/
theorem gx_em_of_stream {cfg : Config} (hc : 13 ≤ cfg.maxmsg ∧ cfg.maxmsg ≤ 255)
    {groups last : List Byte} {extra : List Bool}
    (hlast : (last = [] ∧ extra.length < 8) ∨ (∃ v, last = [v] ∧ extra = lsbBits v))
    (hlen : (emStream groups ++ extra).length ≤ 8 * cfg.maxmsg + 1) :
    ∃ a sc, a.done = groups ++ last ∧ a.nibble = false ∧ GxItems cfg a sc ∧
      gx cfg .em (emStream groups ++ extra) = .ok (sc, decide (0 < (groups ++ last).length)) := by
  have hstream := GxReads.em_stream (cfg := cfg) groups []
  rw [List.nil_append] at hstream
  have hview : ∃ a, GxReads cfg .em (emStream groups ++ extra) ⟨[], 0, 7, false⟩ a ∧
      (a.finish .em).done = groups ++ last ∧ (a.finish .em).nibble = false := by
    rcases hlast with ⟨rfl, hshort⟩ | ⟨v, rfl, rfl⟩
    · refine ⟨_, hstream.append (.dataBits extra (by simp; omega) (by simp)), ?_⟩
      rw [GxView.finish, if_neg fun h => ?_, GxView.dataBits_done, List.append_nil]
      · exact ⟨rfl, GxView.dataBits_nibble (by decide) extra⟩
      · have hobi := h.2
        simp only [GxView.dataBits_obi] at hobi
        omega
    · exact ⟨_, hstream.append (.lsb_byte groups v), rfl, rfl⟩
  obtain ⟨a, hreads, hdone, hnibble⟩ := hview
  obtain ⟨sc, hitems, hgx⟩ := gx_of_reads hc hreads hlen
  refine ⟨_, sc, hdone, hnibble, hitems, ?_⟩
  simpa only [hdone, hnibble, Bool.false_eq_true, or_false] using hgx

/-- A stream the extractor refuses makes the analyzer fail (R223, R228). -/
theorem analyzeEm_of_gx_fail {cfg : Config} {b : Bucket} {sc : Scratch}
    (hcount : b.bitCount ≤ 8 * cfg.maxmsg) (hgx : gx cfg .em (streamOf b) = .ok (sc, false)) :
    analyzeEm cfg b = .ok ⟨sc, none⟩ := by
  simp only [analyzeEm, bitStream_eq hcount, ok_bind, hgx]

/-- A frame of ten bytes that is read back is accepted when the tenth is the XOR of the others (R228). -/
theorem analyzeEm_of_items {cfg : Config} {b : Bucket} {a : GxView} {sc : Scratch}
    (hc : 13 ≤ cfg.maxmsg) (hcount : b.bitCount ≤ 8 * cfg.maxmsg)
    (hgx : gx cfg .em (streamOf b) = .ok (sc, true)) (hitems : GxItems cfg a sc) :
    analyzeEm cfg b = .ok ⟨sc,
      if a.done.length = 10 ∧ a.done.getD 9 0 = xorAll (a.done.take 9) then some .em else none⟩ := by
  by_cases hten : a.done.length = 10
  · have hoby : sc.oby = 10 := BitVec.eq_of_toNat_eq (hitems.oby.trans hten)
    have hpayload := hitems.map_read (n := 9) (by omega)
    have htrailer : Memory.read sc.obuf 9 = a.done.getD 9 0 := by
      rw [hitems.bytes 9 (by omega), List.getD_append _ _ _ _ (by omega)]
    simp only [analyzeEm, bitStream_eq hcount, ok_bind, hgx, hoby, ne_eq, not_true_eq_false,
      if_false, memSlice_of_le (cfg := cfg) (n := 9) _ (by omega),
      memRead_of_lt (cfg := cfg) (i := 9) _ (by omega), hpayload, htrailer, xorBytes_eq_xorAll, hten,
      true_and, eq_comm (a := a.done.getD 9 0)]
    split <;> rfl
  · have hoby : sc.oby ≠ 10 := fun h => hten (by rw [← hitems.oby, h]; rfl)
    simp only [analyzeEm, bitStream_eq hcount, ok_bind, hgx, if_pos hoby, hten, false_and, if_false]

/-- Settles O45: the groups are read back (`gx_em_of_stream`), ten bytes are checked
(`analyzeEm_of_items`), and a stop bit 0 is refused where it stands (`GxRefuses.em_stop`). -/
theorem emFrameIsReadBack : Obligations.EmFrameIsReadBack := by
  intro cfg b hlegal hcount
  have hc := hlegal.maxmsg_bounds
  have hlen : (streamOf b).length ≤ 8 * cfg.maxmsg + 1 := by
    rw [streamOf_length]
    omega
  constructor
  · intro groups last extra hlast hstream bytes
    rw [hstream] at hlen
    obtain ⟨a, sc, hdone, hnibble, hitems, hgx⟩ := gx_em_of_stream hc hlast hlen
    rw [← hstream] at hgx
    refine ⟨sc, by rw [hitems.oby, hdone], hitems.nibble.trans hnibble, ?_, ?_⟩
    · rw [hitems.map_read (congrArg List.length hdone).ge, hdone, List.take_length]
    · by_cases hsome : 0 < bytes.length
      · rw [analyzeEm_of_items hc.1 hcount (hgx.trans (by rw [decide_eq_true hsome])) hitems, hdone]
      · rw [analyzeEm_of_gx_fail hcount (hgx.trans (by rw [decide_eq_false hsome])),
          if_neg fun h => hsome (by omega)]
  · intro good v rest hstream
    have hrefuses := ((GxReads.em_stream (cfg := cfg) good []).append
      (GxReads.lsb_byte good v)).append_refuses (GxRefuses.em_stop rfl)
    rw [hstream] at hlen
    obtain ⟨sc, hgx⟩ := gx_of_refuses hc hrefuses rest hlen
    exact ⟨sc, analyzeEm_of_gx_fail hcount (hstream ▸ hgx)⟩

end Sys2Proof.Machine

namespace Sys2Proof.Machine

/-! ### KS300 -/

/-- The nibbles of the finished bytes, low nibble first, and of the half byte (R232). -/
def GxView.nibbles (a : GxView) : List (BitVec 4) :=
  nibblesLoHi a.done ++ if a.nibble then [loNibble a.cur] else []

theorem nibblesLoHi_length (bytes : List Byte) : (nibblesLoHi bytes).length = 2 * bytes.length := by
  induction bytes with
  | nil => rfl
  | cons v bytes ih =>
    have hstep : nibblesLoHi (v :: bytes) = loNibble v :: hiNibble v :: nibblesLoHi bytes := rfl
    rw [hstep, List.length_cons, List.length_cons, ih, List.length_cons]
    ring

theorem GxView.nibbles_length (a : GxView) :
    a.nibbles.length = 2 * a.done.length + a.nibble.toNat := by
  rw [nibbles, List.length_append, nibblesLoHi_length]
  cases a.nibble <;> rfl

/-- Nibble `i` is in byte `i / 2`, the even ones low (R232). -/
theorem nibblesLoHi_getD (bytes : List Byte) {i : Nat} (hi : i < 2 * bytes.length) :
    (nibblesLoHi bytes).getD i 0 = (bytes.getD (i / 2) 0).extractLsb' (4 * (i % 2)) 4 := by
  induction bytes generalizing i with
  | nil => exact absurd hi (Nat.not_lt_zero i)
  | cons v bytes ih =>
    match i with
    | 0 => rfl
    | 1 => rfl
    | i + 2 =>
      have hrest := ih (i := i) (by rw [List.length_cons] at hi; omega)
      rw [Nat.add_div_right _ (by decide), Nat.add_mod_right, List.getD_cons_succ, ← hrest]
      rfl

theorem GxView.nibbles_getD (a : GxView) {i : Nat} (hi : i < a.nibbles.length) :
    a.nibbles.getD i 0 = ((a.done ++ [a.cur]).getD (i / 2) 0).extractLsb' (4 * (i % 2)) 4 := by
  rw [nibbles_length] at hi
  by_cases hdone : i < 2 * a.done.length
  · rw [nibbles, List.getD_append _ _ _ _ (by rwa [nibblesLoHi_length]), nibblesLoHi_getD _ hdone,
      List.getD_append _ _ _ _ (by omega)]
  · have hnibble : a.nibble = true := by
      cases h : a.nibble
      · rw [h, Bool.toNat_false] at hi
        omega
      · rfl
    have hlast : i = 2 * a.done.length := by
      rw [hnibble, Bool.toNat_true] at hi
      omega
    rw [nibbles, if_pos hnibble, hlast,
      List.getD_append_right _ _ _ _ (by rw [nibblesLoHi_length]), nibblesLoHi_length, Nat.sub_self,
      Nat.mul_div_cancel_left _ (by decide), Nat.mul_mod_right, getD_concat, if_neg (lt_irrefl _),
      if_pos rfl]
    rfl

/-- The nibbles that are read back are the nibbles sent (R224, R232). -/
theorem ks300View_nibbles (bytes : List Byte) (q : List (BitVec 4)) :
    (ks300View bytes q).nibbles = nibblesLoHi bytes ++ q := by
  have hlow (x : BitVec 4) : loNibble (x.setWidth 8) = x := by decide +revert
  have hpair (x y : BitVec 4) : nibblesLoHi [y ++ x] = [x, y] := by decide +revert
  induction bytes, q using ks300View.induct with
  | case1 bytes => rfl
  | case2 bytes x => exact congrArg (fun n => nibblesLoHi bytes ++ [n]) (hlow x)
  | case3 bytes x y q ih =>
    have hsplit : nibblesLoHi (bytes ++ [y ++ x]) = nibblesLoHi bytes ++ [x, y] := by
      rw [← hpair]
      exact List.flatMap_append
    rw [ks300View, ih, hsplit, List.append_assoc]
    rfl

/-- After an odd number of nibbles the extractor is at the half byte, else at a byte's beginning. -/
theorem ks300View_shape (bytes : List Byte) (q : List (BitVec 4)) :
    q.length % 2 = 1 ∧ (ks300View bytes q).nibble = true ∧ (ks300View bytes q).obi = 3 ∨
    q.length % 2 = 0 ∧ (ks300View bytes q).nibble = false ∧ (ks300View bytes q).obi = 7 := by
  induction bytes, q using ks300View.induct with
  | case1 bytes => exact .inr ⟨rfl, rfl, rfl⟩
  | case2 bytes x => exact .inl ⟨rfl, rfl, rfl⟩
  | case3 bytes x y q ih =>
    have hparity : (x :: y :: q).length % 2 = q.length % 2 := Nat.add_mod_right _ 2
    rwa [ks300View, hparity]

theorem dataBits_nibble_false {t : GxKind} {a : GxView} (h : a.nibble = false) (bits : List Bool) :
    (a.dataBits t bits).nibble = false := by
  induction bits generalizing a with
  | nil => exact h
  | cons bit bits ih =>
    refine ih (a := a.data t bit) ?_
    rw [GxView.data, h, ite_self]

/-- Up to four further bits are data bits (R224). -/
theorem GxReads.ks300_extra {cfg : Config} (q : List (BitVec 4)) {extra : List Bool}
    (hextra : extra.length ≤ 4) :
    GxReads cfg .ks300 (ks300Stream q ++ extra) ⟨[], 0, 7, false⟩
      ((ks300View [] q).dataBits .ks300 extra) := by
  refine (GxReads.ks300_stream q []).append (.dataBits extra ?_ fun _ => ?_)
  · rcases ks300View_shape [] q with ⟨-, -, hobi⟩ | ⟨-, -, hobi⟩ <;> rw [hobi] <;> omega
  · rcases ks300View_shape [] q with ⟨-, hnibble, hobi⟩ | ⟨-, -, hobi⟩
    · exact .inr (.inr ⟨hobi, hnibble⟩)
    · exact .inl (by rw [hobi]; omega)

/-- A bit of a high nibble drops the low nibble of its byte from the items (R224). -/
theorem ks300_items (q : List (BitVec 4)) (extra : List Bool) :
    ((ks300View [] q).dataBits .ks300 extra).nibbles =
      if q.length % 2 = 1 ∧ extra ≠ [] then q.dropLast else q := by
  have hq : (ks300View [] q).nibbles = q := ks300View_nibbles [] q
  cases extra with
  | nil => rw [if_neg fun h => h.2 rfl]; exact hq
  | cons bit extra =>
    have hnibble : ((ks300View [] q).dataBits .ks300 (bit :: extra)).nibble = false := by
      refine dataBits_nibble_false (a := (ks300View [] q).data .ks300 bit) ?_ extra
      rcases ks300View_shape [] q with ⟨-, -, hobi⟩ | ⟨-, hfalse, -⟩
      · exact if_pos ⟨rfl, hobi⟩
      · rw [GxView.data, hfalse, ite_self]
    rw [GxView.nibbles, hnibble, GxView.dataBits_done, if_neg Bool.false_ne_true, List.append_nil]
    rcases ks300View_shape [] q with ⟨hodd, htrue, -⟩ | ⟨heven, hfalse, -⟩
    · rw [if_pos ⟨hodd, List.cons_ne_nil _ _⟩]
      conv_rhs => rw [← hq, GxView.nibbles, if_pos htrue, List.dropLast_concat]
    · rw [if_neg fun h => by omega]
      conv_rhs => rw [← hq, GxView.nibbles, if_neg (ne_true_of_eq_false hfalse), List.append_nil]

/-- The check of R233 in numbers. -/
theorem ks300Check_iff (y0 : BitVec 4) (q : List (BitVec 4)) : ks300Check y0 q = true ↔
    q.getD (q.length - 2) 0 = xorAll (q.take (q.length - 2)) ∧
    (q.getD (q.length - 1) 0).toNat = (y0.toNat + ((q.take (q.length - 2)).map BitVec.toNat).sum +
      (xorAll (q.take (q.length - 2))).toNat) % 16 := by
  rw [ks300Check, Bool.and_eq_true, beq_iff_eq, beq_iff_eq, nibbleXor_eq_xorAll, ← BitVec.toNat_inj
    (x := q.getD (q.length - 1) 0), BitVec.toNat_add, nibbleSum_toNat, Nat.mod_add_mod]

/-- A stream the extractor refuses makes the analyzer fail (R223, R232). -/
theorem analyzeKs300_of_gx_fail {cfg : Config} {hightime : Half} {b : Bucket} {sc : Scratch}
    (hcount : b.bitCount ≤ 8 * cfg.maxmsg)
    (hgx : gx cfg .ks300 (streamOf b ++ [projectedBit hightime b]) = .ok (sc, false)) :
    analyzeKs300 cfg hightime b = .ok ⟨sc, none⟩ := by
  simp only [analyzeKs300, extendedStream, bitStream_eq hcount, ok_bind, hgx]

/-- The analyzer's items are those of the view (R232). -/
theorem ks300Items_eq {cfg : Config} {a : GxView} {sc : Scratch} (hitems : GxItems cfg a sc) :
    ks300Items cfg sc = .ok a.nibbles := by
  have hfits := hitems.fits.2
  rw [hitems.oby, hitems.nibble] at hfits
  have hbytes := hitems.map_read le_rfl
  rw [List.take_length] at hbytes
  rw [ks300Items, hitems.oby, memSlice_of_le _ (by omega), ok_bind, hbytes, hitems.nibble,
    GxView.nibbles]
  cases hnibble : a.nibble with
  | false => rw [if_neg Bool.false_ne_true, if_neg Bool.false_ne_true, List.append_nil]
  | true =>
    rw [hnibble, Bool.toNat_true] at hfits
    rw [if_pos rfl, if_pos rfl, memRead_of_lt _ (by omega), ok_bind,
      hitems.bytes _ (by rw [hnibble]; exact Nat.lt_succ_self _), getD_concat,
      if_neg (lt_irrefl _), if_pos rfl]

/-- The items that are read back are accepted when there are three and they check (R232, R233). -/
theorem analyzeKs300_of_items {cfg : Config} {hightime : Half} {b : Bucket} {a : GxView}
    {sc : Scratch} (hcount : b.bitCount ≤ 8 * cfg.maxmsg)
    (hgx : gx cfg .ks300 (streamOf b ++ [projectedBit hightime b]) = .ok (sc, true))
    (hitems : GxItems cfg a sc) :
    analyzeKs300 cfg hightime b = .ok ⟨sc,
      if 3 ≤ a.nibbles.length ∧ ks300Check cfg.ks300Y0 a.nibbles = true then some .ks300
      else none⟩ := by
  simp only [analyzeKs300, extendedStream, bitStream_eq hcount, ok_bind, hgx, ks300Items_eq hitems]
  by_cases hthree : 3 ≤ a.nibbles.length
  · rw [if_neg (not_lt.2 hthree)]
    simp only [hthree, true_and]
    split <;> rfl
  · rw [if_pos (not_le.1 hthree), if_neg fun h => hthree h.1]

/-- Settles O48: the nibbles are read back (`GxReads.ks300_extra`, `ks300_items`) and checked
(`ks300Check_iff`); a separator 0 is refused where it stands (`GxRefuses.ks300_separator`). -/
theorem ks300FrameIsReadBack : Obligations.Ks300FrameIsReadBack := by
  intro cfg hightime b hlegal hcount stream
  have hc := hlegal.maxmsg_bounds
  have hlen : stream.length ≤ 8 * cfg.maxmsg + 1 := by
    rw [List.length_append, streamOf_length]
    exact Nat.add_le_add_right hcount 1
  constructor
  · intro q extra hextra hstream items d y
    obtain ⟨sc, hitems, hgx⟩ := gx_of_reads hc (GxReads.ks300_extra q hextra) (hstream ▸ hlen)
    have hfinish (a : GxView) : a.finish .ks300 = a := if_neg fun h => GxKind.noConfusion h.1
    rw [← hstream] at hgx
    rw [hfinish] at hitems hgx
    have hnibbles := ks300_items q extra
    generalize (ks300View [] q).dataBits .ks300 extra = a at hitems hgx hnibbles
    change a.nibbles = items at hnibbles
    have hlength := a.nibbles_length
    rw [hnibbles] at hlength
    have hcheck := ks300Check_iff cfg.ks300Y0 items
    refine ⟨sc, ?_, ?_, fun i hi => ?_, ?_⟩
    · have hle := a.nibble.toNat_le
      rw [hitems.oby, hlength]
      omega
    · rw [hitems.nibble, hlength]
      cases a.nibble <;> simp
    · rw [← hnibbles] at hi ⊢
      rw [a.nibbles_getD hi, hitems.bytes]
      rw [hnibbles] at hi
      have hle := a.nibble.toNat_le
      omega
    · by_cases hsome : 0 < a.done.length ∨ a.nibble = true
      · rw [analyzeKs300_of_items hcount (hgx.trans (by rw [decide_eq_true hsome])) hitems, hnibbles]
        simp only [hcheck]
        rfl
      · rw [analyzeKs300_of_gx_fail hcount (hgx.trans (by rw [decide_eq_false hsome])), if_neg]
        rintro ⟨hthree, -⟩
        rw [not_or, Bool.not_eq_true] at hsome
        rw [hsome.2, Bool.toNat_false] at hlength
        omega
  · intro q v rest hstream
    have hfour : (nibbleLsbBits v).length = 4 := rfl
    have hseparator : GxRefuses cfg .ks300 [false]
        ((ks300View [] q).dataBits .ks300 (nibbleLsbBits v)) := by
      refine .ks300_separator ?_
      rw [GxView.dataBits_obi, hfour]
      rcases ks300View_shape [] q with ⟨-, -, hobi⟩ | ⟨-, hnibble, hobi⟩
      · exact .inl (by rw [hobi]; rfl)
      · exact .inr ⟨by rw [hobi]; rfl, dataBits_nibble_false hnibble _⟩
    have hrefuses := (GxReads.ks300_extra (cfg := cfg) q hfour.le).append_refuses hseparator
    rw [hstream] at hlen
    obtain ⟨sc, hgx⟩ := gx_of_refuses hc hrefuses rest hlen
    rw [← hstream] at hgx
    exact ⟨sc, analyzeKs300_of_gx_fail hcount hgx⟩

end Sys2Proof.Machine
